-- ==== Sys2Proof/Word.lean ====
section
/-! DEFINITION. The word types of the part: 16-bit words in two byte lanes, 19-bit word addresses, 32-bit time tags
(00_scope.md, Conventions). -/

namespace Sys2Proof

/-- One byte half of a word: a lane. -/
abbrev Byte := BitVec 8

/-- A word of memory, a sample word, a parameter word, a detail of an event. -/
abbrev Word := BitVec 16

/-- A word address, 0x00000 to 0x7FFFF. -/
abbrev Addr := BitVec 19

/-- A value of the time tag counter (R177). -/
abbrev Tag := BitVec 32

end Sys2Proof
end

