-- ==== Sys2Proof/Syntax.lean ====
section
/-! DEFINITION. The commands: one constructor for each row of spec/opcode_table.json, in the table's order. -/

namespace Sys2Proof

/-- What the processor port shows at an arrival, with PCS# low (R1, R2): address, strobes, lane selects and data lines. -/
structure BusCycle where
  addr : Addr
  /-- POE# is low. -/
  poeLow : Bool
  /-- PWE# is low. -/
  pweLow : Bool
  /-- PUB# is low: the high lane is selected. -/
  pubLow : Bool
  /-- PLB# is low: the low lane is selected. -/
  plbLow : Bool
  /-- PD15..PD0; looked at for a write only. -/
  data : Word
deriving DecidableEq, Repr

/-- The steps of the part. A port operand names the sample port the event happens at; port p carries transmit stream 2p and
receive stream 2p + 1. -/
inductive Instr where
  /-- ACCESS_ARRIVAL: PCS# is low together with a strobe. -/
  | accessArrival (c : BusCycle)
  /-- ARBITER_GRANT. -/
  | arbiterGrant
  /-- PASSAGE_COMPLETE. -/
  | passageComplete
  /-- HOLD_EXPIRY. -/
  | holdExpiry
  /-- FETCH_WORD_COMPLETE. -/
  | fetchWordComplete
  /-- DEPOSIT_WORD_COMPLETE. -/
  | depositWordComplete
  /-- RX_STOPPING_DRAINED, of the receive stream of port p. -/
  | rxStoppingDrained (p : Fin 4)
  /-- RX_RUN_COMPLETE, of the receive stream of port p. -/
  | rxRunComplete (p : Fin 4)
  /-- COMMAND_RECORD_READ. -/
  | commandRecordRead
  /-- COMMAND_RESULT_WRITTEN. -/
  | commandResultWritten
  /-- EVENT_RECORD_WRITTEN. -/
  | eventRecordWritten
  /-- INT_PULSE_END. -/
  | intPulseEnd
  /-- IDENTITY_BURST_COMPLETE. -/
  | identityBurstComplete
  /-- FRAME_BOUNDARY at port p. `fsy` is FSYn as a SLAVE port has sampled it, one sample a bit: a SYNCED port in bits 0, 1, 2
  and so on of the current frame, an UNSYNCED one since its APPLY (R87, R88). A MASTER port does not look at it. -/
  | frameBoundary (p : Fin 4) (fsy : List Bool)
  /-- LATE_FRAME at port p. -/
  | lateFrame (p : Fin 4)
  /-- CHANNEL_SLOT_START at port p, of the next channel slot of the current frame. -/
  | channelSlotStart (p : Fin 4)
  /-- RX_CHANNEL_WORD_COMPLETE at port p, of the next channel word of the current frame. `sdi` is SDIn as sampled in the sixteen
  bits of the slot, first bit first (R89). -/
  | rxChannelWordComplete (p : Fin 4) (sdi : Vector Bool 16)
  /-- STARVATION_EXPIRY, of the transmit stream of port p. -/
  | starvationExpiry (p : Fin 4)
  /-- TRIG_EDGE. -/
  | trigEdge
  /-- TAGCLK_EDGE. -/
  | tagclkEdge
  /-- RST_FALL. -/
  | rstFall
  /-- RST_RISE, with the levels of BASE3..BASE0 and BPAR. -/
  | rstRise (base : BitVec 4) (bpar : Bool)
  /-- NOP, executed from the current record; so are the commands that follow, each with its parameters in the record. -/
  | nop
  /-- DEFINE_PORT. -/
  | definePort
  /-- DEFINE_STREAM. -/
  | defineStream
  /-- DEFINE_DETECTOR. -/
  | defineDetector
  /-- DEFINE_WATCH. -/
  | defineWatch
  /-- APPLY. -/
  | apply
  /-- START. -/
  | start
  /-- STOP. -/
  | stop
  /-- ABORT. -/
  | abort
  /-- EXTEND. -/
  | extend
  /-- SET_LEVEL. -/
  | setLevel
  /-- CLEAR_FAULT. -/
  | clearFault
  /-- QUERY_STREAM. -/
  | queryStream
  /-- QUERY_FAULTS. -/
  | queryFaults
  /-- QUERY_PORT. -/
  | queryPort
  /-- SET_TIME. -/
  | setTime
  /-- SET_LINE. -/
  | setLine
  /-- RESET_PART. -/
  | resetPart
  /-- UNKNOWN_COMMAND. -/
  | unknownCommand
  /-- INTERNAL_TIME_TAG_INCREASE. -/
  | internalTimeTagIncrease
  /-- IDENTITY_FIRST_BURST_COMPLETE. -/
  | identityFirstBurstComplete
  /-- PCS_OR_STROBES_HIGH. -/
  | pcsOrStrobesHigh
deriving DecidableEq, Repr

end Sys2Proof
end

