-- ==== Sys2Proof/Decode.lean ====
section
/-! DEFINITION. The command a word spells. The rows of spec/opcode_table.json give no bits ("fields" is empty and there is no
pattern); the one word of the part that selects a command is word 7 of a command record (R138, log 20). -/

namespace Sys2Proof

/-- The command a code selects (R138); any other code is UNKNOWN (R164). -/
def commandOfCode (code : Byte) : Instr :=
  match code.toNat with
  | 0x01 => .nop
  | 0x02 => .definePort
  | 0x03 => .defineStream
  | 0x04 => .defineDetector
  | 0x05 => .defineWatch
  | 0x06 => .apply
  | 0x08 => .start
  | 0x09 => .stop
  | 0x0A => .abort
  | 0x0B => .extend
  | 0x0C => .setLevel
  | 0x0D => .clearFault
  | 0x10 => .queryStream
  | 0x11 => .queryFaults
  | 0x12 => .queryPort
  | 0x18 => .setTime
  | 0x19 => .setLine
  | 0x1F => .resetPart
  | _ => .unknownCommand

/-- A word of 16 bits is read as word 7 of a command record: its low byte is the code, its high byte a tag of any value (R138).
No other word spells a command (log 20). -/
def decodeTableWord (nbits w : Nat) : Option Instr :=
  if nbits = 16 then some (commandOfCode (BitVec.ofNat 8 w)) else none

end Sys2Proof
end

