-- ==== Sys2Proof/Config.lean ====
section
/-! DEFINITION. The free values: what the spec leaves open and the machine goes on with. None has a body, so nothing can be
proved of their values. Each is applied to `State.freeCount`, which the step that reads one advances (log 16). -/

namespace Sys2Proof

/-- The byte on a lane of PD that a read did not select: R2 states the RAM's byte on a selected lane only (log 6). -/
opaque Config.undrivenByte : Nat → Byte

/-- Whether the word whose cycle the fall of RST# cut holds the new value: R20 leaves it old or new (log 7). -/
opaque Config.cutWordLands : Nat → Bool

/-- How many words of an 8-word record burst had completed when RST# fell (R20). The table has one step for such a burst,
so the state does not say; the number is used modulo the words of the burst (log 7). -/
opaque Config.cutWordsDone : Nat → Nat

end Sys2Proof
end

