-- ==== Sys2Proof/Machine/State.lean ====
section
/-! DEFINITION. The state of the part, block by block as 00_scope.md divides it, and the state after reset. INVENTORY.md
lists every field with the rule that names it. -/

namespace Sys2Proof.Machine

open Sys2Proof

/-! ### Processor accesses -/

/-- The direction of an access, with the word a write carried on PD at arrival (R1, R11). -/
inductive AccessKind where
  | read
  | write (data : Word)
deriving DecidableEq, Repr

/-- A processor access as the Path Unit looks at it at arrival (R1, R2). -/
structure Access where
  kind : AccessKind
  addr : Addr
  high : Bool
  low : Bool
deriving DecidableEq, Repr

/-- The ten rings (R22). -/
inductive RingId where
  | stream (n : Fin 8)
  | command
  | event
deriving DecidableEq, Repr

/-- What the completion of a forwarded access does: the Ring Tracker's judgement of it (R35). -/
inductive Effect where
  /-- Nothing: an access outside every window, a rewrite, a look, a pass-through. -/
  | none
  /-- Fills the producer slot of a supply ring (R26). -/
  | post (r : RingId)
  /-- Empties the consumer slot of a deposit ring (R31). -/
  | consume (r : RingId)
  /-- Flags ORDER on transmit stream n with this slot (R29). -/
  | order (n : Fin 8) (slot : Nat)
deriving DecidableEq, Repr

/-- The held-access record (R11). `releasable` is no after an APPLY has recreated the ring of a held read (R46). -/
structure HeldAccess where
  access : Access
  ring : RingId
  slot : Nat
  word : Nat
  limit : Nat
  time : Nat
  releasable : Bool
deriving DecidableEq, Repr

/-- Where the Path Unit is with the one access it can have. -/
inductive PathPhase where
  /-- PRDY is high and an arrival is taken. -/
  | ready
  /-- An access is held, PRDY low (R11). -/
  | held (h : HeldAccess)
  /-- An access is forwarded: it waits for PASSAGE or is in its memory cycle, PRDY low (R3). -/
  | forwarded (a : Access) (e : Effect)
  /-- PRDY has risen; the Path Unit waits for PCS# or both strobes to go high (R1). -/
  | ended
  /-- An access arrived on the transparent path and is still on the bus (R19, R21). -/
  | transparent
deriving DecidableEq, Repr

/-- The Path Unit. -/
structure PathUnit where
  phase : PathPhase
  /-- What the processor port shows: the lines of the last arrival, until PCS# or both strobes go high. With an access held or
  forwarded and nothing here, the processor has withdrawn it early (R1). -/
  bus : Option BusCycle
  /-- PD15..PD0 as the last read to end left it (R1, R9). -/
  pd : Word
deriving DecidableEq, Repr

/-! ### The Memory Arbiter -/

/-- The four part requesters (R15). -/
inductive Requester where
  | deposit
  | fetch
  | record
  | command
deriving DecidableEq, Repr

/-- A Fetch Engine burst: the addresses still to be read, whether the ring it was granted against still stands (R35), and
whether the run it was granted for does: no word of a burst reaches a later run (R68). -/
structure FetchBurst where
  port : Fin 4
  reads : List Addr
  ringStands : Bool
  runStands : Bool
deriving DecidableEq, Repr

/-- A Deposit Engine burst: the samples still to be written with their addresses, and whether its ring and its run stand. -/
structure DepositBurst where
  port : Fin 4
  writes : List (Addr × Word)
  ringStands : Bool
  runStands : Bool
deriving DecidableEq, Repr

/-- Who holds the memory port (R16, R17). A record burst carries the words it writes, taken at its grant, in order. -/
inductive PortUse where
  | free
  | passage
  | fetch (b : FetchBurst)
  | deposit (b : DepositBurst)
  | commandRead
  | commandResult (writes : List (Addr × Word))
  | eventRecord (writes : List (Addr × Word))
  | identityFirst (writes : List (Addr × Word))
  | identitySecond (writes : List (Addr × Word))
deriving DecidableEq, Repr

/-- The Memory Arbiter: the use of the port and the passed-over counts, Deposit Engine first, Command Unit last. -/
structure Arbiter where
  use : PortUse
  counts : Vector Nat 4
deriving DecidableEq, Repr

/-! ### Rings -/

/-- The changing values of a ring (R23). The two control rings keep no lap. -/
structure Ring where
  producer : Nat
  consumer : Nat
  fill : Nat
  lap : Option Word
deriving DecidableEq, Repr

/-- The Ring Table (R22). -/
structure RingTable where
  stream : Vector Ring 8
  command : Ring
  event : Ring
deriving DecidableEq, Repr

/-! ### Streams -/

/-- R49. -/
inductive StreamState where
  | absent
  | idle
  | armed
  | pending
  | running
  | stopping
deriving DecidableEq, Repr

/-- Why a stream is STOPPING (R49). -/
inductive StoppingReason where
  | stopped
  | starved
deriving DecidableEq, Repr

/-- R50. -/
inductive ResumePolicy where
  | auto
  | cleared
deriving DecidableEq, Repr

/-- Which of a stream's events are raised (R50, R78). -/
structure Enables where
  lifecycle : Bool
  fault : Bool
  signal : Bool
  onset : Bool
  segment : Bool
deriving DecidableEq, Repr

/-- A stream's definition (R50). -/
structure StreamDef where
  base : Addr
  length : Nat
  burstCode : Nat
  holdLimit : Nat
  resume : ResumePolicy
  starvation : Nat
  runFrames : Nat
  enables : Enables
deriving DecidableEq, Repr

/-- The faults of a stream (R73). -/
inductive StreamFault where
  | underrun
  | overrun
  | frame
  | refused
  | empty
  | order
deriving DecidableEq, Repr

/-- An entry of the Stream Table (R49). Parts that the table gives to one kind of stream stay at their reset values on the
other kind. -/
structure StreamEntry where
  active : Option StreamDef
  state : StreamState
  stopping : Option StoppingReason
  /-- The run limit in words; none is endless. -/
  limit : Option Nat
  limitReached : Bool
  extension : Option Nat
  fetched : Nat
  taken : Nat
  sent : Nat
  admitted : Nat
  deposited : Nat
  discarded : Nat
  /-- Six flags in the order of the fault numbers. -/
  flags : Vector Bool 6
  /-- Six counts in the order of the fault numbers. -/
  counts : Vector Nat 6
  k : Nat
  replay : Vector Word 8
  attenuation : Nat
  mute : Bool
  /-- The starvation timer: stopped, or the microseconds elapsed (R76). -/
  starvation : Option Nat
  gateOpen : Bool
  segOpen : Bool
  segWords : Nat
deriving DecidableEq, Repr

/-- The round-robin positions (R72), as port numbers. -/
structure Engines where
  lastFetch : Fin 4
  lastDeposit : Fin 4
deriving DecidableEq, Repr

/-! ### Sample ports -/

/-- R83. -/
inductive Role where
  | master
  | slave
deriving DecidableEq, Repr

/-- R87. -/
inductive SyncShape where
  | pulse
  | span
deriving DecidableEq, Repr

/-- R104. -/
inductive FrameCheck where
  | early
  | exact
deriving DecidableEq, Repr

/-- A port's definition (R83). -/
structure PortDef where
  role : Role
  channels : Nat
  frameBits : Nat
  divider : Nat
  shape : SyncShape
  check : FrameCheck
  idle : Word
deriving DecidableEq, Repr

/-- R82; `none` on an absent port (R109). -/
inductive SyncState where
  | none
  | running
  | unsynced
  | synced
deriving DecidableEq, Repr

/-- The transmit condition (R82, R93). -/
inductive TxCondition where
  | taking
  | waiting
deriving DecidableEq, Repr

/-- R98. -/
inductive MarkKind where
  | segStart
  | segEnd
deriving DecidableEq, Repr

/-- An entry of an RX FIFO (R98). -/
inductive RxEntry where
  | sample (w : Word) (channel : Nat)
  | reserved (channel : Nat)
  | mark (kind : MarkKind) (tag : Tag)
deriving DecidableEq, Repr

/-- An entry of the Port Table (R82). `slotsStarted` and `wordsDone` are the model's own (log 10). -/
structure PortEntry where
  active : Option PortDef
  sync : SyncState
  framePos : Option Nat
  framesSeen : Word
  txFifo : List Word
  rxFifo : List RxEntry
  tx : TxCondition
  admitted : Bool
  /-- The channel slots of the current frame that have begun. -/
  slotsStarted : Nat
  /-- The channel words of the current frame that have completed. -/
  wordsDone : Nat
  /-- The word the channel slot begun last carries on SDOn (R92). -/
  slotWord : Word
deriving DecidableEq, Repr

/-! ### Signal detectors -/

/-- R110. -/
inductive DetectorState where
  | quiet
  | onset
  | present
  | fading
deriving DecidableEq, Repr

/-- A detector's definition (R111). -/
structure DetectorDef where
  blockFrames : Nat
  mask : Byte
  onThreshold : Nat
  offThreshold : Nat
  onTime : Nat
  offTime : Nat
  gating : Bool
deriving DecidableEq, Repr

/-- A Signal Detector (R110). -/
structure DetectorEntry where
  active : Option DetectorDef
  state : DetectorState
  count : Nat
  frames : Nat
  peak : Nat
  last : Nat
deriving DecidableEq, Repr

/-! ### Write watches -/

/-- R130. -/
inductive MatchMode where
  | any
  | all
  | none
deriving DecidableEq, Repr

/-- R131. -/
inductive Trigger where
  | each
  | enter
deriving DecidableEq, Repr

/-- R132. -/
inductive WatchAction where
  | note
  | block
deriving DecidableEq, Repr

/-- A watch's definition (R129). -/
structure WatchDef where
  addr : Addr
  mask : Word
  mode : MatchMode
  trigger : Trigger
  action : WatchAction
deriving DecidableEq, Repr

/-- An entry of the Watch Table; `matching` is the last-match state (R129, R131). -/
structure WatchEntry where
  active : Option WatchDef
  matching : Bool
deriving DecidableEq, Repr

/-! ### The Command Unit -/

/-- The twenty staged definitions (R144). -/
structure Staged where
  streams : Vector (Option StreamDef) 8
  ports : Vector (Option PortDef) 4
  detectors : Vector (Option DetectorDef) 4
  watches : Vector (Option WatchDef) 4
deriving DecidableEq, Repr

/-- The current record as read: its slot, the tag and code of word 7, and P0..P5 (R136, R138). -/
structure CommandRecord where
  slot : Nat
  tag : Byte
  code : Byte
  params : Vector Word 6
deriving DecidableEq, Repr

/-- R142. -/
inductive ResultCode where
  | done
  | invalid
  | busy
  | conflict
  | late
  | notready
  | unknown
deriving DecidableEq, Repr

/-- The end of an execution: result code, detail for word 6, and the six response words of a query returning DONE (R139). -/
structure CommandResult where
  code : ResultCode
  detail : Word
  response : Option (Vector Word 6)
deriving DecidableEq, Repr

/-- R136. -/
inductive CommandState where
  | waiting
  | reading (slot : Nat)
  | executing (r : CommandRecord)
  | writing (r : CommandRecord) (result : CommandResult)
deriving DecidableEq, Repr

/-- The Command Unit. -/
structure CommandUnit where
  state : CommandState
  staged : Staged
deriving DecidableEq, Repr

/-! ### Events and the time tag -/

/-- The kinds of event (08_events_time_tag_and_the_interrupt_line.md, section 8.1). -/
inductive EventKind where
  | started
  | trigger
  | watchHit
  | cmdRefused
  | streamStarted
  | streamEnded
  | runExtended
  | fault
  | signalOnset
  | signalPresent
  | signalEnded
  | segmentStart
  | segmentEnd
deriving DecidableEq, Repr

/-- An event as it is raised (R166). -/
structure Event where
  kind : EventKind
  source : Byte
  a : Word
  b : Word
  c : Word
  tag : Tag
deriving DecidableEq, Repr

/-- An event in the pending queue with its carried count (R167, R168). -/
structure QueuedEvent where
  event : Event
  carried : Nat
deriving DecidableEq, Repr

/-- R172, R173. -/
inductive LineMode where
  | level
  | pulse
deriving DecidableEq, Repr

/-- The Event Unit (R167, R168, R173). -/
structure EventUnit where
  queue : List QueuedEvent
  dropped : Nat
  line : LineMode
  /-- An INT# pulse under way: the microseconds elapsed (R173). -/
  pulse : Option Nat
deriving DecidableEq, Repr

/-- R177. -/
inductive TagSource where
  | internal
  | external
deriving DecidableEq, Repr

/-- The Time Tag (R177). -/
structure TimeTag where
  counter : Tag
  source : TagSource
deriving DecidableEq, Repr

/-! ### Start-up Control -/

/-- The part states (09_start_up_and_straps.md, section 9.1). -/
inductive PartState where
  | reset
  | safe
  | starting
  | operating
deriving DecidableEq, Repr

/-- R181, R188. -/
inductive ResetCause where
  | pin
  | resetPart
deriving DecidableEq, Repr

/-- How far the identity write is (R171, R188). -/
inductive IdentityPhase where
  | idle
  /-- Asked for; the first burst has not been granted. -/
  | firstDue
  /-- The first burst has been granted; the second has not. -/
  | secondDue
  /-- The second burst has been granted. -/
  | finishing
deriving DecidableEq, Repr

/-- The identity write under way and the one owed (R188). -/
structure IdentityWrite where
  phase : IdentityPhase
  owed : Bool
deriving DecidableEq, Repr

/-- Start-up Control. -/
structure StartUp where
  part : PartState
  base : BitVec 4
  bpar : Bool
  cause : ResetCause
  identity : IdentityWrite
deriving DecidableEq, Repr

/-! ### The whole state -/

/-- The state of the part. -/
structure State where
  start : StartUp
  path : PathUnit
  arb : Arbiter
  rings : RingTable
  streams : Vector StreamEntry 8
  engines : Engines
  ports : Vector PortEntry 4
  detectors : Vector DetectorEntry 4
  watches : Vector WatchEntry 4
  cmd : CommandUnit
  events : EventUnit
  time : TimeTag
  /-- The RAM as bytes in canonical form (`Memory.wf`): word a has its low lane at 2a and its high lane at 2a + 1. -/
  mem : List Host.Cell
  /-- The model's own: the index of the next free value (log 16). -/
  freeCount : Nat
  /-- The commands waiting, first in first out. -/
  pending : List Instr
deriving DecidableEq, Repr

/-- A ring just created: empty, at slot 0 (R44, R48). -/
def Ring.fresh (lap : Option Word) : Ring := { producer := 0, consumer := 0, fill := 0, lap := lap }

/-- A stream's entry as R52 sets it, with the replay values at `idle`. -/
def StreamEntry.fresh (active : Option StreamDef) (idle : Word) : StreamEntry :=
  { active := active
    state := match active with
      | some _ => .idle
      | none => .absent
    stopping := none
    limit := none
    limitReached := false
    extension := none
    fetched := 0
    taken := 0
    sent := 0
    admitted := 0
    deposited := 0
    discarded := 0
    flags := Vector.replicate 6 false
    counts := Vector.replicate 6 0
    k := 0
    replay := Vector.replicate 8 idle
    attenuation := 0
    mute := false
    starvation := none
    gateOpen := false
    segOpen := false
    segWords := 0 }

/-- A port's entry as APPLY leaves it (R84); with no definition, as RST# leaves it (R109). -/
def PortEntry.fresh (active : Option PortDef) : PortEntry :=
  { active := active
    sync := match active with
      | none => .none
      | some d => match d.role with
        | .master => .running
        | .slave => .unsynced
    framePos := none
    framesSeen := 0
    txFifo := []
    rxFifo := []
    tx := .taking
    admitted := false
    slotsStarted := 0
    wordsDone := 0
    slotWord := 0 }

/-- A detector in QUIET with zero counts and peaks (R112). -/
def DetectorEntry.fresh (active : Option DetectorDef) : DetectorEntry :=
  { active := active, state := .quiet, count := 0, frames := 0, peak := 0, last := 0 }

/-- A watch as APPLY leaves it (R134). -/
def WatchEntry.fresh (active : Option WatchDef) : WatchEntry := { active := active, matching := false }

/-- No staged definition (R144). -/
def Staged.none : Staged :=
  { streams := Vector.replicate 8 Option.none
    ports := Vector.replicate 4 Option.none
    detectors := Vector.replicate 4 Option.none
    watches := Vector.replicate 4 Option.none }

/-- The part with RST# low (R180), every block at the value its rule gives for reset. The strap values, the reset cause and
PD before the first rise of RST# are the model's choice (log 5). -/
def State.reset : State :=
  { start := { part := .reset, base := 0, bpar := false, cause := .pin, identity := { phase := .idle, owed := false } }
    path := { phase := .ready, bus := none, pd := 0 }
    arb := { use := .free, counts := Vector.replicate 4 0 }
    rings := { stream := Vector.replicate 8 (Ring.fresh (some 0)), command := Ring.fresh none, event := Ring.fresh none }
    streams := Vector.replicate 8 (StreamEntry.fresh none 0)
    engines := { lastFetch := 3, lastDeposit := 3 }
    ports := Vector.replicate 4 (PortEntry.fresh none)
    detectors := Vector.replicate 4 (DetectorEntry.fresh none)
    watches := Vector.replicate 4 (WatchEntry.fresh none)
    cmd := { state := .waiting, staged := Staged.none }
    events := { queue := [], dropped := 0, line := .level, pulse := none }
    time := { counter := 0, source := .internal }
    mem := []
    freeCount := 0
    pending := [] }

/-- The part has no fault that stops it: memory never fails (01_the_memory_path.md, section 1.1), every address of the
19-bit space exists, every access ends and every command has a result. So the type has no constructor and nothing raises
one (log 25). The faults of R73 are flags and counts of a stream, in `StreamEntry`. -/
inductive Fault where
deriving DecidableEq, Repr

/-- Why a command has no meaning. -/
inductive Refusal where
  /-- Raised by `exec` for a command of the table whose meaning is not written; safe, because the run ends there. Every
  command has its meaning, so nothing raises it now. -/
  | notModelled (mnemonic : String)
deriving DecidableEq, Repr

end Sys2Proof.Machine
end

