-- ==== Sys2Proof/Machine/Ops.lean ====
section
/-! DEFINITION. The named operations over memory, the tables of the blocks, the rings and the event queue. -/

namespace Sys2Proof.Machine

open Sys2Proof

/-! ### Memory: bytes in one canonical form -/

/-- What a byte of RAM that nothing has written reads as: DESIGN CHOICE, unsafe (log 4). -/
def Memory.unlisted : Byte := 0

/-- The byte at a cell key. -/
def Memory.byteAt : List Host.Cell → Nat → Byte
  | [], _ => Memory.unlisted
  | (a, b) :: m, k => if a = k then b else Memory.byteAt m k

/-- Writes one byte, keeping the keys rising and listing no byte that an unlisted cell reads as. -/
def Memory.setByte : List Host.Cell → Nat → Byte → List Host.Cell
  | [], k, v => if v = Memory.unlisted then [] else [(k, v)]
  | (a, b) :: m, k, v =>
    if k < a then (if v = Memory.unlisted then (a, b) :: m else (k, v) :: (a, b) :: m)
    else if k = a then (if v = Memory.unlisted then m else (k, v) :: m)
    else (a, b) :: Memory.setByte m k v

/-- The canonical form above a bound: keys at or above it, rising, below 2^20, no byte equal to the unlisted one. -/
def Memory.wfFrom : Nat → List Host.Cell → Bool
  | _, [] => true
  | lo, (a, b) :: m => decide (lo ≤ a) && decide (a < 2 ^ 20) && decide (b ≠ Memory.unlisted) && Memory.wfFrom (a + 1) m

/-- The canonical form. -/
def Memory.wf (m : List Host.Cell) : Bool := Memory.wfFrom 0 m

/-- The cell key of a word's low lane (log 3). -/
def Memory.lowKey (a : Addr) : Nat := 2 * a.toNat

/-- The cell key of a word's high lane (log 3). -/
def Memory.highKey (a : Addr) : Nat := 2 * a.toNat + 1

/-- The word at an address. -/
def Memory.word (m : List Host.Cell) (a : Addr) : Word :=
  Memory.byteAt m (Memory.highKey a) ++ Memory.byteAt m (Memory.lowKey a)

/-- The byte of a word on its high lane. -/
def highByte (w : Word) : Byte := w.extractLsb' 8 8

/-- The byte of a word on its low lane. -/
def lowByte (w : Word) : Byte := w.extractLsb' 0 8

/-- Writes the selected lanes of a word (R2). -/
def Memory.store (m : List Host.Cell) (a : Addr) (high low : Bool) (w : Word) : List Host.Cell :=
  let m1 := if low then Memory.setByte m (Memory.lowKey a) (lowByte w) else m
  if high then Memory.setByte m1 (Memory.highKey a) (highByte w) else m1

/-- Writes words in full, in order: a burst of the part. -/
def Memory.storeAll : List Host.Cell → List (Addr × Word) → List Host.Cell
  | m, [] => m
  | m, (a, w) :: ws => Memory.storeAll (Memory.store m a true true w) ws

/-! ### Numbering (00_scope.md, Streams, ports and numbering) -/

/-- The transmit stream of a port. -/
def txOf (p : Fin 4) : Fin 8 := ⟨2 * p.val, by omega⟩

/-- The receive stream of a port. -/
def rxOf (p : Fin 4) : Fin 8 := ⟨2 * p.val + 1, by omega⟩

/-- The port of a stream. -/
def portOf (n : Fin 8) : Fin 4 := ⟨n.val / 2, by omega⟩

/-- Even streams transmit. -/
def isTx (n : Fin 8) : Bool := n.val % 2 == 0

/-- The ports in number order. -/
def allPorts : List (Fin 4) := [0, 1, 2, 3]

/-- The streams in number order. -/
def allStreams : List (Fin 8) := [0, 1, 2, 3, 4, 5, 6, 7]

/-- A number as a word of a record. -/
def word (n : Nat) : Word := BitVec.ofNat 16 n

/-- Adds one to a 16-bit saturating count (00_scope.md, Counts). -/
def satInc (n : Nat) : Nat := if n < 65535 then n + 1 else 65535

/-! ### The tables of the blocks -/

/-- A change made to every entry of a table of four. -/
def map4 {α : Type} (f : α → α) (v : Vector α 4) : Vector α 4 := #v[f v[0], f v[1], f v[2], f v[3]]

/-- A change made to every entry of a table of eight. -/
def map8 {α : Type} (f : α → α) (v : Vector α 8) : Vector α 8 :=
  #v[f v[0], f v[1], f v[2], f v[3], f v[4], f v[5], f v[6], f v[7]]

def State.stream (s : State) (n : Fin 8) : StreamEntry := s.streams[n.val]

def State.setStream (s : State) (n : Fin 8) (e : StreamEntry) : State :=
  { s with streams := s.streams.set n.val e }

def State.port (s : State) (p : Fin 4) : PortEntry := s.ports[p.val]

def State.setPort (s : State) (p : Fin 4) (e : PortEntry) : State :=
  { s with ports := s.ports.set p.val e }

def State.detector (s : State) (p : Fin 4) : DetectorEntry := s.detectors[p.val]

def State.setDetector (s : State) (p : Fin 4) (e : DetectorEntry) : State :=
  { s with detectors := s.detectors.set p.val e }

def State.watch (s : State) (w : Fin 4) : WatchEntry := s.watches[w.val]

def State.setWatch (s : State) (w : Fin 4) (e : WatchEntry) : State :=
  { s with watches := s.watches.set w.val e }

def RingTable.get (t : RingTable) : RingId → Ring
  | .stream n => t.stream[n.val]
  | .command => t.command
  | .event => t.event

def RingTable.set (t : RingTable) (r : RingId) (v : Ring) : RingTable :=
  match r with
  | .stream n => { t with stream := t.stream.set n.val v }
  | .command => { t with command := v }
  | .event => { t with event := v }

def State.ring (s : State) (r : RingId) : Ring := s.rings.get r

def State.setRing (s : State) (r : RingId) (v : Ring) : State := { s with rings := s.rings.set r v }

def State.setPhase (s : State) (ph : PathPhase) : State := { s with path := { s.path with phase := ph } }

/-- The processor port's lines: those of an arrival, or none between accesses (R1). -/
def State.setBus (s : State) (b : Option BusCycle) : State := { s with path := { s.path with bus := b } }

def State.setUse (s : State) (u : PortUse) : State := { s with arb := { s.arb with use := u } }

/-! ### Part states and geometry -/

/-- STARTING or OPERATING: the part decodes, grants and counts (R19, R180, R182). -/
def State.live (s : State) : Bool :=
  match s.start.part with
  | .starting | .operating => true
  | .reset | .safe => false

/-- A meaning that acts only in STARTING and OPERATING; in RESET and SAFE the event is not taken (R19, R81, R182). -/
def whenLive (f : State → State) (s : State) : Host.Outcome State Fault Refusal :=
  .next (if s.live then f s else s)

/-- The control area base, BASE × 0x8000 (R5). -/
def State.controlBase (s : State) : Nat := s.start.base.toNat * 0x8000

/-- The channel count of a port; 1 while the port is absent (log 13). -/
def State.channels (s : State) (p : Fin 4) : Nat :=
  match (s.port p).active with
  | some d => d.channels
  | none => 1

/-- The idle word of a port; 0 while the port is absent (log 13). -/
def State.idleWord (s : State) (p : Fin 4) : Word :=
  match (s.port p).active with
  | some d => d.idle
  | none => 0

/-- The slot count of a ring (R22). -/
def State.slotCount (s : State) : RingId → Nat
  | .stream n => match (s.stream n).active with
    | some d => d.length
    | none => 0
  | .command => 16
  | .event => 32

/-- The base of a ring (R22). -/
def State.ringBase (s : State) : RingId → Nat
  | .stream n => match (s.stream n).active with
    | some d => d.base.toNat
    | none => 0
  | .command => s.controlBase + 0x010
  | .event => s.controlBase + 0x090

/-- The hold limit of a ring in microseconds (R22). -/
def State.holdLimit (s : State) : RingId → Nat
  | .stream n => match (s.stream n).active with
    | some d => d.holdLimit
    | none => 0
  | .command => 50
  | .event => 0

/-- The substitute word of a deposit ring, as it stands (R9, R22). A supply ring has none. -/
def State.substituteWord (s : State) : RingId → Word
  | .stream n => s.idleWord (portOf n)
  | .command => 0
  | .event => 0

/-- Whether a ring is a SUPPLY ring (R22). -/
def RingId.supply : RingId → Bool
  | .stream n => isTx n
  | .command => true
  | .event => false

/-- A word address. -/
def address (n : Nat) : Addr := BitVec.ofNat 19 n

/-! ### Ring values (R23) -/

/-- The slot after a slot. -/
def nextSlot (count i : Nat) : Nat := if i + 1 < count then i + 1 else 0

/-- The ring after a fill. -/
def Ring.filled (count : Nat) (r : Ring) : Ring :=
  { r with
    producer := nextSlot count r.producer
    fill := r.fill + 1
    lap := if r.producer + 1 < count then r.lap else r.lap.map (· + 1) }

/-- The ring after a consumption. -/
def Ring.consumed (count : Nat) (r : Ring) : Ring :=
  { r with consumer := nextSlot count r.consumer, fill := r.fill - 1 }

/-- Whether a slot is filled: it lies among the `fill` slots from the consumer on. -/
def Ring.holds (count : Nat) (r : Ring) (slot : Nat) : Bool := (slot + count - r.consumer) % count < r.fill

/-- `n` slots in ring order from a slot. -/
def slotsFrom (count : Nat) : Nat → Nat → List Nat
  | _, 0 => []
  | i, n + 1 => i :: slotsFrom count (nextSlot count i) n

/-- A fill of a ring by its owner's rule. -/
def State.fillRing (s : State) (r : RingId) : State := s.setRing r ((s.ring r).filled (s.slotCount r))

/-- A consumption of a ring. -/
def State.consumeRing (s : State) (r : RingId) : State := s.setRing r ((s.ring r).consumed (s.slotCount r))

/-! ### Events (R166 to R168) -/

/-- The capacity of the pending queue (R167). -/
def queueCapacity : Nat := 8

/-- A raised event joins the tail of the pending queue with the dropped count, or is dropped and counted. -/
def EventUnit.raise (u : EventUnit) (e : Event) : EventUnit :=
  if u.queue.length < queueCapacity then
    { u with queue := u.queue ++ [{ event := e, carried := u.dropped }], dropped := 0 }
  else { u with dropped := satInc u.dropped }

def State.raise (s : State) (e : Event) : State := { s with events := s.events.raise e }

/-- The source of a part event (section 8.1). -/
def partSource : Byte := 0xFF

/-- A part event, always raised, with the tag of the moment. -/
def State.raisePart (s : State) (kind : EventKind) (source : Byte) (a b c : Word) : State :=
  s.raise { kind := kind, source := source, a := a, b := b, c := c, tag := s.time.counter }

/-- A stream event with a given tag, filtered by the stream's enables (R78, R116, R124). -/
def State.raiseStreamAt (s : State) (n : Fin 8) (enabled : Enables → Bool) (tag : Tag) (kind : EventKind) (a b c : Word) : State :=
  match (s.stream n).active with
  | some d =>
    if enabled d.enables then
      s.raise { kind := kind, source := BitVec.ofNat 8 n.val, a := a, b := b, c := c, tag := tag }
    else s
  | none => s

/-- A stream event with the tag of the moment of raising. -/
def State.raiseStream (s : State) (n : Fin 8) (enabled : Enables → Bool) (kind : EventKind) (a b c : Word) : State :=
  s.raiseStreamAt n enabled s.time.counter kind a b c

/-! ### The processor's access at the RAM and its end -/

/-- A read of the RAM: the selected lanes of the word, free bytes on the others (R2, log 6), left on PD. -/
def State.ramRead (s : State) (a : Access) : State :=
  let hi := if a.high then Memory.byteAt s.mem (Memory.highKey a.addr) else Config.undrivenByte s.freeCount
  let lo := if a.low then Memory.byteAt s.mem (Memory.lowKey a.addr) else Config.undrivenByte (s.freeCount + 1)
  { s with
    path := { s.path with pd := hi ++ lo }
    freeCount := if a.high && a.low then s.freeCount else s.freeCount + 2 }

/-- The memory cycle of an access: a read leaves the RAM's word on PD, a write changes the selected lanes (R2, R3). -/
def State.ramAccess (s : State) (a : Access) : State :=
  match a.kind with
  | .read => s.ramRead a
  | .write d => { s with mem := Memory.store s.mem a.addr a.high a.low d }

/-- PRDY rises. The Path Unit waits for PCS# or both strobes to go high, unless they already have (R1). -/
def State.endAccess (s : State) : State :=
  { s with path := { s.path with phase := if s.path.bus.isNone then .ready else .ended } }

/-- The access is forwarded: PASSAGE is requested (R3). -/
def State.forward (s : State) (a : Access) (e : Effect) : State := s.setPhase (.forwarded a e)

/-- The access is answered with a word and no memory cycle (R9). -/
def State.substitute (s : State) (w : Word) : State := { s with path := { s.path with pd := w } }.endAccess

/-! ### Requests -/

/-- Start-up Control asks for the identity block (R183, R188): a request while the first burst is still due merges with it,
a later one is owed. -/
def IdentityWrite.request (i : IdentityWrite) : IdentityWrite :=
  match i.phase with
  | .idle => { i with phase := .firstDue }
  | .firstDue => i
  | .secondDue | .finishing => { i with owed := true }

def State.requestIdentity (s : State) : State :=
  { s with start := { s.start with identity := s.start.identity.request } }

/-- The Command Unit takes the consumer record when it is WAITING, the part is OPERATING and a record is posted (R137). -/
def State.takeCommand (s : State) : State :=
  match s.cmd.state with
  | .waiting =>
    if s.start.part = .operating ∧ 1 ≤ (s.ring .command).fill then
      { s with cmd := { s.cmd with state := .reading (s.ring .command).consumer } }
    else s
  | _ => s

end Sys2Proof.Machine
end

