-- ==== Sys2Proof/Machine/Operands.lean ====
section
/-! DEFINITION. The operand forms: what the processor port shows, the fields of the command records, and the words of
results, event records and the identity block (11_memory_formats.md, R190 to R192). -/

namespace Sys2Proof.Machine

open Sys2Proof

/-- The access a bus cycle makes: PWE# low is a write, whatever POE# is; POE# low alone is a read; with neither strobe low
nothing arrives (R1). -/
def busAccess (c : BusCycle) : Option Access :=
  if c.pweLow then some { kind := .write c.data, addr := c.addr, high := c.pubLow, low := c.plbLow }
  else if c.poeLow then some { kind := .read, addr := c.addr, high := c.pubLow, low := c.plbLow }
  else none

/-! ### Numbers of names -/

/-- Fault numbers less one (R73). -/
def StreamFault.index : StreamFault → Fin 6
  | .underrun => 0
  | .overrun => 1
  | .frame => 2
  | .refused => 3
  | .empty => 4
  | .order => 5

/-- The six faults in number order. -/
def allFaults : List StreamFault := [.underrun, .overrun, .frame, .refused, .empty, .order]

/-- R191: the state in QUERY STREAM's P0. -/
def StreamState.number : StreamState → Nat
  | .absent => 0
  | .idle => 1
  | .armed => 2
  | .pending => 3
  | .running => 4
  | .stopping => 5

/-- R191: the detector state in QUERY PORT's P4. -/
def DetectorState.number : DetectorState → Nat
  | .quiet => 0
  | .onset => 1
  | .present => 2
  | .fading => 3

/-- R142. -/
def ResultCode.number : ResultCode → Nat
  | .done => 0
  | .invalid => 1
  | .busy => 2
  | .conflict => 3
  | .late => 4
  | .notready => 5
  | .unknown => 6

/-- R192. -/
def EventKind.number : EventKind → Byte
  | .started => 0x01
  | .trigger => 0x02
  | .watchHit => 0x03
  | .cmdRefused => 0x04
  | .streamStarted => 0x10
  | .streamEnded => 0x11
  | .runExtended => 0x12
  | .fault => 0x13
  | .signalOnset => 0x18
  | .signalPresent => 0x19
  | .signalEnded => 0x1A
  | .segmentStart => 0x1B
  | .segmentEnd => 0x1C

/-- R184: the reset cause as the identity block and STARTED give it. -/
def ResetCause.number : ResetCause → Nat
  | .pin => 1
  | .resetPart => 2

/-- R190, word 14. -/
def TagSource.number : TagSource → Nat
  | .internal => 0
  | .external => 1

/-! ### Fields of a command record (R191) -/

/-- A parameter word P0..P5. -/
def CommandRecord.p (r : CommandRecord) (i : Fin 6) : Word := r.params[i.val]

/-- Bits 7–0 of a word as a number. -/
def low8 (w : Word) : Nat := (lowByte w).toNat

/-- Bits 15–8 of a word as a number. -/
def high8 (w : Word) : Nat := (highByte w).toNat

/-- One bit of a word. -/
def bit (w : Word) (i : Nat) : Bool := w.getLsbD i

/-- A field of `n` bits from bit `lo` up. -/
def field (w : Word) (lo n : Nat) : Nat := (w.extractLsb' lo n).toNat

/-- The words a record is read from, as the current record: word 7 gives the tag and the code (R138), word 6 is not used. -/
def readRecord (slot : Nat) (w : Nat → Word) : CommandRecord :=
  { slot := slot
    tag := highByte (w 7)
    code := lowByte (w 7)
    params := #v[w 0, w 1, w 2, w 3, w 4, w 5] }

/-! ### Results -/

def CommandResult.ok : CommandResult := { code := .done, detail := 0, response := none }

def CommandResult.okWith (v : Vector Word 6) : CommandResult := { code := .done, detail := 0, response := some v }

def CommandResult.fail (c : ResultCode) (detail : Nat) : CommandResult := { code := c, detail := word detail, response := none }

/-- The result word: the tag, and 0x80 plus the result code (R140). -/
def resultWord (r : CommandRecord) (res : CommandResult) : Word := r.tag ++ BitVec.ofNat 8 (0x80 + res.code.number)

/-- A record's words with their addresses, from word 0 up. -/
def placed : Nat → List Word → List (Addr × Word)
  | _, [] => []
  | a, w :: ws => (address a, w) :: placed (a + 1) ws

/-- The address of word 0 of a record of a control ring (11.1). -/
def State.recordBase (s : State) (r : RingId) (slot : Nat) : Nat := s.ringBase r + 8 * slot

/-- The result burst, in order: the responses if there are any, word 6, word 7 (R140). -/
def State.resultWrites (s : State) (r : CommandRecord) (res : CommandResult) : List (Addr × Word) :=
  let base := s.recordBase .command r.slot
  (match res.response with
    | some v => placed base v.toList
    | none => [])
    ++ placed (base + 6) [res.detail, resultWord r res]

/-! ### Event records (R170, R192) -/

/-- The eight words of an event record. -/
def eventWords (q : QueuedEvent) (backlog : Nat) : List Word :=
  [ q.event.source ++ q.event.kind.number, q.event.a, q.event.b, q.event.c,
    q.event.tag.extractLsb' 0 16, q.event.tag.extractLsb' 16 16, word q.carried, word backlog ]

/-! ### The identity block (R184, R190) -/

/-- Words 0 to 7. -/
def State.identityWords0 (s : State) : List Word :=
  [0x0428, 0x0001, 4, 8, 32, 16, 32, word s.start.base.toNat]

/-- Words 8 to 15, as they stand at the grant of the second burst. -/
def State.identityWords1 (s : State) : List Word :=
  [word s.start.cause.number, 50, 8, 4, 4, 0x8000, word s.time.source.number, 400]

/-! ### Windows (R5, R6) -/

/-- What an address is, as the Path Unit decodes it. -/
inductive Target where
  /-- The identity block. -/
  | identity
  /-- A slot and a word of a ring. -/
  | ring (r : RingId) (slot word : Nat)
  /-- Outside the control area and every stream window. -/
  | outside
deriving DecidableEq, Repr

/-- Whether an address lies in a stream definition's window (R6). -/
def StreamDef.covers (d : StreamDef) (a : Addr) : Bool := d.base.toNat ≤ a.toNat && a.toNat < d.base.toNat + d.length

/-- Whether stream n is not ABSENT and its window holds the address (R4, R6). -/
def State.windowHolds (s : State) (a : Addr) (n : Fin 8) : Bool :=
  match (s.stream n).active with
  | some d => (s.stream n).state != .absent && d.covers a
  | none => false

/-- The decode order of R4: the control area, then the stream windows. -/
def State.decode (s : State) (a : Addr) : Target :=
  let base := s.controlBase
  let off := a.toNat - base
  if base ≤ a.toNat ∧ off < 400 then
    if off < 0x010 then .identity
    else if off < 0x090 then .ring .command ((off - 0x010) / 8) ((off - 0x010) % 8)
    else .ring .event ((off - 0x090) / 8) ((off - 0x090) % 8)
  else match allStreams.find? (s.windowHolds a) with
    | some n => .ring (.stream n) (a.toNat - s.ringBase (.stream n)) 0
    | none => .outside

end Sys2Proof.Machine
end

