-- ==== Sys2Proof/Machine/Flags.lean ====
section
/-! DEFINITION. The fault flags and counts of a stream (R36, R73, R75). -/

namespace Sys2Proof.Machine

open Sys2Proof

/-- Which faults a stream has (R49). -/
def StreamFault.applies (f : StreamFault) (n : Fin 8) : Bool :=
  match f with
  | .underrun | .refused | .order => isTx n
  | .overrun | .empty => !isTx n
  | .frame => true

/-- A flag of an entry. -/
def StreamEntry.flag (e : StreamEntry) (f : StreamFault) : Bool := e.flags[f.index.val]

/-- A count of an entry. -/
def StreamEntry.faultCount (e : StreamEntry) (f : StreamFault) : Nat := e.counts[f.index.val]

/-- The entry after one occurrence: the flag set, the count increased and saturating (R73). -/
def StreamEntry.occurred (e : StreamEntry) (f : StreamFault) : StreamEntry :=
  { e with
    flags := e.flags.set f.index.val true
    counts := e.counts.set f.index.val (satInc (e.faultCount f)) }

/-- One occurrence of a fault at stream n (R73): taken in any state but ABSENT; FAULT is raised when the flag rises and the
stream's FAULT enable is on. -/
def State.occur (s : State) (n : Fin 8) (f : StreamFault) (index : Nat) : State :=
  let e := s.stream n
  if e.state = .absent then s
  else
    let s1 := s.setStream n (e.occurred f)
    if e.flag f then s1
    else s1.raiseStream n Enables.fault .fault (word (f.index.val + 1)) (word index) (word (satInc (e.faultCount f)))

/-- Clears the flags whose bit 1..6 is set in a word, of the faults the stream has (R75, R157). -/
def StreamEntry.clearFlags (e : StreamEntry) (w : Word) : StreamEntry :=
  { e with flags := e.flags.mapIdx fun i b => b && !bit w (i + 1) }

/-- All counts to zero (R159). -/
def StreamEntry.clearCounts (e : StreamEntry) : StreamEntry := { e with counts := Vector.replicate 6 0 }

/-- QUERY STREAM's flag word: bit n for fault n, 0 for a fault the stream cannot have (R75, R191). -/
def StreamEntry.flagWord (e : StreamEntry) (n : Fin 8) : Word :=
  word ((allFaults.filter fun f => f.applies n && e.flag f).foldl (fun acc f => acc + 2 ^ (f.index.val + 1)) 0)

end Sys2Proof.Machine
end

