-- ==== Sys2Proof/Machine/Tracker.lean ====
section
/-! DEFINITION. The Ring Tracker's judgement of an access, release and expiry of a held access (02_rings.md), and the Watch
Unit's evaluation of a write (06_write_watches.md). -/

namespace Sys2Proof.Machine

open Sys2Proof

/-- The Ring Tracker's answer to a referred access (R8); a refusal comes at expiry. -/
inductive Answer where
  | pass (e : Effect)
  | hold
  | substitute (w : Word)
deriving DecidableEq, Repr

/-- The last word of a slot: word 7 on the control rings, the one word of a stream slot (R24). -/
def RingId.lastWord : RingId → Nat
  | .stream _ => 0
  | .command | .event => 7

/-- A qualifying write of a supply ring (R25). -/
def qualifyingWrite (r : RingId) (word : Nat) (a : Access) : Bool :=
  match a.kind with
  | .read => false
  | .write d =>
    word == r.lastWord && a.high &&
      match r with
      | .command => a.low && lowByte d != 0
      | .stream _ | .event => true

/-- A read that selects a lane. -/
def Access.laneRead (a : Access) : Bool := a.kind == .read && (a.high || a.low)

/-- The cases of a qualifying write (R26 to R29). -/
def State.judgeWrite (s : State) (r : RingId) (slot : Nat) : Answer :=
  let v := s.ring r
  let count := s.slotCount r
  if slot = v.producer then (if v.fill < count then .pass (.post r) else .hold)
  else if v.holds count slot then .pass .none
  else match r with
    | .stream n => .pass (.order n slot)
    | .command | .event => .pass .none

/-- The cases of a read of a deposit ring with at least one lane (R31 to R34). -/
def State.judgeRead (s : State) (r : RingId) (slot word : Nat) : Answer :=
  let v := s.ring r
  if slot = v.consumer then
    if v.fill = 0 then
      match r with
      | .event => .substitute (s.substituteWord .event)
      | .stream _ | .command => if word = r.lastWord then .hold else .pass .none
    else if word = r.lastWord then .pass (.consume r)
    else .pass .none
  else .pass .none

/-- The judgement of a referred access (R24 to R34). -/
def State.judge (s : State) (a : Access) (r : RingId) (slot word : Nat) : Answer :=
  if r.supply then (if qualifyingWrite r word a then s.judgeWrite r slot else .pass .none)
  else if a.laneRead then s.judgeRead r slot word
  else .pass .none

/-- An expired hold (R12, R27, R32, R36): a write is refused, a read is substituted, each with its fault or event. -/
def State.expire (s : State) (a : Access) (r : RingId) (slot : Nat) : State :=
  match a.kind with
  | .write _ =>
    match r with
    | .stream n => (s.occur n .refused slot).endAccess
    | .command => (s.raisePart .cmdRefused partSource (word slot) 0 0).endAccess
    | .event => s.endAccess
  | .read =>
    match r with
    | .stream n => (s.occur n .empty slot).substitute (s.substituteWord r)
    | .command | .event => s.substitute (s.substituteWord r)

/-- The Path Unit carries out an answer at arrival (R8, R11, R12). -/
def State.answer (s : State) (a : Access) (r : RingId) (slot word : Nat) : Answer → State
  | .pass e => s.forward a e
  | .substitute w => s.substitute w
  | .hold =>
    if 0 < s.holdLimit r then
      s.setPhase (.held { access := a, ring := r, slot := slot, word := word, limit := s.holdLimit r, time := 0, releasable := true })
    else s.expire a r slot

/-- A part fill or consumption of a slot has completed: the access held on that slot is judged again and released (R41). -/
def State.releaseAt (s : State) (r : RingId) (slot : Nat) : State :=
  match s.path.phase with
  | .held h =>
    if h.ring = r ∧ h.slot = slot ∧ h.releasable = true then
      match s.judge h.access r h.slot h.word with
      | .pass e => s.forward h.access e
      | .hold | .substitute _ => s
    else s
  | _ => s

/-- A held access is released as a pass-through (R14, R47). -/
def State.passThrough (s : State) : State :=
  match s.path.phase with
  | .held h => s.forward h.access .none
  | _ => s

/-- Whether an effect is on the ring of stream n. -/
def Effect.onStream (e : Effect) (n : Fin 8) : Bool :=
  match e with
  | .none => false
  | .post r | .consume r => r == .stream n
  | .order m _ => m == n

/-- The ring of stream n is recreated or removed: a forwarded access judged against the old ring, and an engine burst granted
against it, make no ring effect any more (R35). -/
def State.dropClaims (s : State) (n : Fin 8) : State :=
  let ph := match s.path.phase with
    | .forwarded a e => if e.onStream n then .forwarded a .none else .forwarded a e
    | ph => ph
  let u := match s.arb.use with
    | .fetch b => if txOf b.port = n then .fetch { b with ringStands := false } else .fetch b
    | .deposit b => if rxOf b.port = n then .deposit { b with ringStands := false } else .deposit b
    | u => u
  (s.setPhase ph).setUse u

/-! ### The Watch Unit -/

/-- The bits of the lanes an access selects. -/
def Access.laneMask (a : Access) : Word := (if a.high then 0xFF00 else 0) ||| (if a.low then 0x00FF else 0)

/-- Whether the taking-part bits of the written data match (R130). -/
def MatchMode.holds (m : MatchMode) (part data : Word) : Bool :=
  match m with
  | .any => part &&& data != 0
  | .all => part &&& data == part
  | .none => part &&& data == 0

/-- Whether the watch evaluates the write: same address, and a mask bit in a written lane (R130). -/
def WatchDef.evaluates (d : WatchDef) (a : Access) : Bool := d.addr == a.addr && d.mask &&& a.laneMask != 0

/-- Whether an evaluated write matches. -/
def WatchDef.isMatch (d : WatchDef) (a : Access) (data : Word) : Bool := d.mode.holds (d.mask &&& a.laneMask) data

/-- Whether the write is a hit of the watch (R131). -/
def WatchEntry.isHit (e : WatchEntry) (a : Access) (data : Word) : Bool :=
  match e.active with
  | none => false
  | some d => d.evaluates a && d.isMatch a data && (d.trigger == .each || !e.matching)

/-- The entry after the write: its last-match state (R131). -/
def WatchEntry.after (e : WatchEntry) (a : Access) (data : Word) : WatchEntry :=
  match e.active with
  | none => e
  | some d => if d.evaluates a then { e with matching := d.isMatch a data } else e

/-- Whether a watch's action is BLOCK (R132). -/
def WatchEntry.blocks (e : WatchEntry) : Bool :=
  match e.active with
  | none => false
  | some d => d.action == .block

/-- The hitting watches in number order. -/
def State.watchHits (s : State) (a : Access) (data : Word) : List (Fin 4) :=
  allPorts.filter fun w => (s.watch w).isHit a data

/-- The WATCH_HIT events, lowest watch first (R133). -/
def State.raiseHits (s : State) (a : Access) (data : Word) (blocked : Bool) (hits : List (Fin 4)) : State :=
  hits.foldl (fun s w => s.raisePart .watchHit (BitVec.ofNat 8 w.val) (data &&& a.laneMask) (a.addr.extractLsb' 0 16)
    (if blocked then 1 else 0)) s

/-- Whether a write is discarded: at least one hitting watch blocks (R132). -/
def State.watchBlocks (s : State) (a : Access) (data : Word) : Bool :=
  (s.watchHits a data).any fun w => (s.watch w).blocks

/-- A write outside every window (R7, R132): the watches evaluate it, the hits are raised, and it is discarded or forwarded. -/
def State.watchWrite (s : State) (a : Access) (data : Word) : State :=
  let hits := s.watchHits a data
  let blocked := s.watchBlocks a data
  let s1 := { s with watches := map4 (fun e => WatchEntry.after e a data) s.watches }
  let s2 := s1.raiseHits a data blocked hits
  if blocked then s2.endAccess else s2.forward a .none

end Sys2Proof.Machine
end

