-- ==== Sys2Proof/Machine/Runs.lean ====
section
/-! DEFINITION. Operations on a stream's run shared by the steps: run limit and extension, the end of a run, marks and
segments, fetching and depositing eligibility (03_streams_and_runs.md, 05_signal_detector_and_gating.md). -/

namespace Sys2Proof.Machine

open Sys2Proof

/-- The capacity of a FIFO in samples (R91, R98). -/
def fifoPlaces : Nat := 32

/-- The most marks an RX FIFO may hold when a START mark is asked for (R102). -/
def startMarkRoom : Nat := 6

/-! ### RX FIFO entries -/

def RxEntry.isSample : RxEntry → Bool
  | .sample _ _ => true
  | .reserved _ | .mark _ _ => false

def RxEntry.isMark : RxEntry → Bool
  | .mark _ _ => true
  | .sample _ _ | .reserved _ => false

def RxEntry.isPlace : RxEntry → Bool
  | .mark _ _ => false
  | .sample _ _ | .reserved _ => true

/-- SAMPLE entries of an RX FIFO. -/
def sampleCount (f : List RxEntry) : Nat := f.countP RxEntry.isSample

/-- MARK entries of an RX FIFO. -/
def markCount (f : List RxEntry) : Nat := f.countP RxEntry.isMark

/-- SAMPLE and RESERVED entries of an RX FIFO. -/
def placeCount (f : List RxEntry) : Nat := f.countP RxEntry.isPlace

/-- The sample words at the head of an RX FIFO. -/
def headSamples : List RxEntry → List Word
  | .sample w _ :: f => w :: headSamples f
  | _ => []

/-! ### Counting -/

/-- The words counted against the run limit: fetched or admitted (R51). -/
def StreamEntry.wordsIn (e : StreamEntry) (n : Fin 8) : Nat := if isTx n then e.fetched else e.admitted

/-- The words counted off the run: taken or deposited (R63). -/
def StreamEntry.wordsOut (e : StreamEntry) (n : Fin 8) : Nat := if isTx n then e.taken else e.deposited

/-- The words transferred: sent or deposited (R78). -/
def StreamEntry.wordsMoved (e : StreamEntry) (n : Fin 8) : Nat := if isTx n then e.sent else e.deposited

/-- The frames remaining of a run (R63), C being the port's channel count. -/
def StreamEntry.framesRemaining (e : StreamEntry) (n : Fin 8) (C : Nat) : Nat :=
  match e.state, e.limit with
  | .absent, _ | .idle, _ => 0
  | _, none => 0
  | _, some l => min 65535 ((l - e.wordsOut n) / C)

/-- The burst B of a definition: code 0 gives C (R50). -/
def StreamDef.burst (d : StreamDef) (C : Nat) : Nat := if d.burstCode = 0 then C else d.burstCode

/-- Whether the detector of a port is present with gating on. -/
def State.gating (s : State) (p : Fin 4) : Bool :=
  match (s.detector p).active with
  | some d => d.gating
  | none => false

/-- Whether a Fetch Engine burst for the port's transmit stream is under way. -/
def State.fetching (s : State) (p : Fin 4) : Bool :=
  match s.arb.use with
  | .fetch b => b.port == p
  | _ => false

/-- Whether a deposit burst of the port's receive stream is under way. -/
def State.depositing (s : State) (p : Fin 4) : Bool :=
  match s.arb.use with
  | .deposit b => b.port == p
  | _ => false

/-- The transmit run is exhausted: limit reached, TX FIFO empty, no burst under way (R64, R92). -/
def State.exhausted (s : State) (p : Fin 4) : Bool :=
  (s.stream (txOf p)).limitReached && (s.port p).txFifo.isEmpty && !s.fetching p

/-- The RX FIFO is drained: no entry, and no deposit burst under way (R58, R65). -/
def State.drained (s : State) (p : Fin 4) : Bool := (s.port p).rxFifo.isEmpty && !s.depositing p

/-! ### Marks and segments -/

/-- A mark joins the tail of the RX FIFO (R102). -/
def State.placeMark (s : State) (p : Fin 4) (kind : MarkKind) : State :=
  s.setPort p { s.port p with rxFifo := (s.port p).rxFifo ++ [.mark kind s.time.counter] }

/-- An END mark is placed and the gate is closed (R120, R121). -/
def State.endMark (s : State) (p : Fin 4) : State :=
  let s1 := s.placeMark p .segEnd
  s1.setStream (rxOf p) { s1.stream (rxOf p) with gateOpen := false }

/-- With gating on, an open gate is closed with an END mark (R120, R121). -/
def State.closeGate (s : State) (p : Fin 4) : State :=
  if s.gating p && (s.stream (rxOf p)).gateOpen then s.endMark p else s

/-- SEGMENT_END with the ring's producer and lap and the segment word count, and the record closed (R124, R126). -/
def State.closeSegment (s : State) (p : Fin 4) (tag : Tag) : State :=
  let n := rxOf p
  let v := s.ring (.stream n)
  let s1 := s.raiseStreamAt n Enables.segment tag .segmentEnd (word v.producer) (v.lap.getD 0) (word (s.stream n).segWords)
  s1.setStream n { s1.stream n with segOpen := false }

/-- SEGMENT_START with the ring's producer and lap, and the record open with count 0 (R123). -/
def State.openSegment (s : State) (p : Fin 4) (tag : Tag) : State :=
  let n := rxOf p
  let v := s.ring (.stream n)
  let s1 := s.raiseStreamAt n Enables.segment tag .segmentStart (word v.producer) (v.lap.getD 0) 0
  s1.setStream n { s1.stream n with segOpen := true, segWords := 0 }

/-- The Deposit Engine processes one mark (R69). -/
def State.processMark (s : State) (p : Fin 4) (kind : MarkKind) (tag : Tag) : State :=
  match kind with
  | .segStart => s.openSegment p tag
  | .segEnd => s.closeSegment p tag

/-- The marks at the head of an RX FIFO leave it and are processed, oldest first (R69). -/
def State.processHead (p : Fin 4) : List RxEntry → State → State
  | .mark kind tag :: f, s =>
    State.processHead p f ((s.setPort p { s.port p with rxFifo := f }).processMark p kind tag)
  | _, s => s

/-- Marks are processed while the stream is RUNNING or STOPPING and no deposit burst of it is under way (R69). -/
def State.processMarks (s : State) (p : Fin 4) : State :=
  match (s.stream (rxOf p)).state with
  | .running | .stopping => if s.depositing p then s else State.processHead p (s.port p).rxFifo s
  | _ => s

/-! ### The run limit -/

/-- The run limit is reached when the words in equal it (R60): a pending extension is applied (R62); otherwise limit reached
becomes yes, and a receive stream's gate closes under gating (R121). -/
def State.checkLimit (s : State) (n : Fin 8) : State :=
  let e := s.stream n
  match e.limit with
  | none => s
  | some l =>
    if e.wordsIn n = l then
      match e.extension with
      | some f =>
        let C := s.channels (portOf n)
        let e1 := { e with limit := some (l + f * C), extension := none }
        (s.setStream n e1).raiseStream n Enables.lifecycle .runExtended (word f) (word (e1.framesRemaining n C)) 0
      | none =>
        let s1 := s.setStream n { e with limitReached := true }
        if isTx n then s1 else s1.closeGate (portOf n)
    else s

/-! ### The end of a run -/

/-- The reasons of STREAM_ENDED (R78). -/
inductive EndReason where
  | complete
  | stopped
  | aborted
  | starved
  | reset
deriving DecidableEq, Repr

def EndReason.number : EndReason → Nat
  | .complete => 1
  | .stopped => 2
  | .aborted => 3
  | .starved => 4
  | .reset => 5

/-- The reason a STOPPING stream ends with (R57). -/
def StoppingReason.ends : StoppingReason → EndReason
  | .stopped => .stopped
  | .starved => .starved

/-- The run of stream n is over: the words of an engine burst granted for it belong to no run any more (R68, R71). -/
def PortUse.afterRun (u : PortUse) (n : Fin 8) : PortUse :=
  match u with
  | .fetch b => if txOf b.port = n then .fetch { b with runStands := false } else .fetch b
  | .deposit b => if rxOf b.port = n then .deposit { b with runStands := false } else .deposit b
  | u => u

/-- The stream becomes IDLE and STREAM_ENDED is raised (R78). -/
def State.endRun (s : State) (n : Fin 8) (why : EndReason) : State :=
  let e := s.stream n
  ((s.setUse (s.arb.use.afterRun n)).setStream n
    { e with state := .idle, stopping := none, starvation := none }).raiseStream n Enables.lifecycle .streamEnded
    (word why.number) (word (e.wordsMoved n / s.channels (portOf n))) (word (min 65535 e.discarded))

/-- Every word in the TX FIFO is thrown out and counted in words discarded (R51, R91). -/
def State.throwOutTx (s : State) (p : Fin 4) : State :=
  let n := txOf p
  let e := s.stream n
  (s.setStream n { e with discarded := e.discarded + (s.port p).txFifo.length }).setPort p { s.port p with txFifo := [] }

/-- Every entry of the RX FIFO is thrown out, the samples counted in words discarded (R59, R98, R100). -/
def State.throwOutRx (s : State) (p : Fin 4) : State :=
  let n := rxOf p
  let e := s.stream n
  (s.setStream n { e with discarded := e.discarded + sampleCount (s.port p).rxFifo }).setPort p
    { s.port p with rxFifo := [], admitted := false }

/-- An open segment record is closed directly (R126). -/
def State.closeOpenSegment (s : State) (p : Fin 4) : State :=
  if (s.stream (rxOf p)).segOpen then s.closeSegment p s.time.counter else s

/-- A run is ended at once, as ABORT ends it (R59, R80, R126). -/
def State.cutRun (s : State) (n : Fin 8) (why : EndReason) : State :=
  let p := portOf n
  if isTx n then (s.throwOutTx p).endRun n why
  else
    let s1 := (s.throwOutRx p).closeOpenSegment p
    (s1.setStream n { s1.stream n with gateOpen := false }).endRun n why

/-- ARMED, PENDING, RUNNING or STOPPING: a run is under way. -/
def StreamState.inRun : StreamState → Bool
  | .absent | .idle => false
  | .armed | .pending | .running | .stopping => true

/-! ### Eligibility (R66, R70) -/

/-- A transmit stream eligible for fetching (R66). -/
def State.fetchEligible (s : State) (p : Fin 4) : Bool :=
  let n := txOf p
  let e := s.stream n
  match e.active with
  | none => false
  | some d =>
    (e.state == .pending || e.state == .running) && !e.limitReached && decide (1 ≤ (s.ring (.stream n)).fill) &&
      decide (d.burst (s.channels p) + (s.port p).txFifo.length ≤ fifoPlaces)

/-- A receive stream eligible for depositing (R70). -/
def State.depositEligible (s : State) (p : Fin 4) : Bool :=
  let n := rxOf p
  let e := s.stream n
  let samples := (headSamples (s.port p).rxFifo).length
  match e.active with
  | none => false
  | some d =>
    (e.state == .running || e.state == .stopping) && decide (1 ≤ samples) && decide ((s.ring (.stream n)).fill < d.length) &&
      !s.depositing p &&
      (decide (d.burst (s.channels p) ≤ samples) || (s.port p).rxFifo.any RxEntry.isMark || e.state == .stopping ||
        e.limitReached)

/-- The first eligible port after the last one served (R67, R71). -/
def nextServed (last : Fin 4) (eligible : Fin 4 → Bool) : Option (Fin 4) :=
  [last + 1, last + 2, last + 3, last].find? eligible

end Sys2Proof.Machine
end

