-- ==== Sys2Proof/Machine/Commands.lean ====
section
/-! DEFINITION. How a command executes (07_commands.md section 7.1, R139, R142, R143), and the DEFINE commands (section 7.3). -/

namespace Sys2Proof.Machine

open Sys2Proof

/-- A command executes at one moment: while the Command Unit is EXECUTING a record whose code selects it (R138), `f` makes the
effects and gives the result, and the unit goes to WRITING (R139). Without such a record the command is not taken (log 1). -/
def execute (c : Instr) (f : CommandRecord → State → State × CommandResult) (s : State) :
    Host.Outcome State Fault Refusal :=
  whenLive (fun s =>
    match s.cmd.state with
    | .executing r =>
      if commandOfCode r.code = c then
        let out := f r s
        { out.1 with cmd := { out.1.cmd with state := .writing r out.2 } }
      else s
    | .waiting | .reading _ | .writing _ _ => s) s

/-- A result that leaves the part as it is (R142). -/
def failWith (s : State) (c : ResultCode) (detail : Nat) : State × CommandResult := (s, CommandResult.fail c detail)

/-- DONE with a new state. -/
def doneWith (s : State) : State × CommandResult := (s, CommandResult.ok)

/-- The number in bits 7–0 of P0 as an object below a bound (R191). -/
def CommandRecord.number (r : CommandRecord) (bound : Nat) : Option (Fin bound) :=
  if h : low8 (r.p 0) < bound then some ⟨low8 (r.p 0), h⟩ else none

/-- A command that names a stream: INVALID with detail 0 for a number above 7 (R143, check 1). -/
def withStream (r : CommandRecord) (s : State) (f : Fin 8 → State × CommandResult) : State × CommandResult :=
  match r.number 8 with
  | some n => f n
  | none => failWith s .invalid 0

/-- A command that names a port, a detector or a watch: INVALID with detail 0 for a number above 3 (R143). -/
def withObject (r : CommandRecord) (s : State) (f : Fin 4 → State × CommandResult) : State × CommandResult :=
  match r.number 4 with
  | some p => f p
  | none => failWith s .invalid 0

/-- A stream that is not ABSENT, else NOTREADY with its number (R143, check 3). -/
def withPresent (n : Fin 8) (s : State) (f : StreamEntry → State × CommandResult) : State × CommandResult :=
  if (s.stream n).state = .absent then failWith s .notready n.val else f (s.stream n)

/-- The presence flag of a DEFINE: bit 15 of P0 (R191). -/
def CommandRecord.present (r : CommandRecord) : Bool := bit (r.p 0) 15

/-! ### DEFINE PORT (R145) -/

/-- The fields of DEFINE PORT, or the index of the first word out of range. -/
def portFields (r : CommandRecord) : Except Nat PortDef :=
  let C := field (r.p 1) 0 4
  let L := (r.p 2).toNat
  let D := (r.p 3).toNat
  if C < 1 ∨ 8 < C then .error 1
  else if L < 16 * C ∨ 256 < L then .error 2
  else if D < 1 ∨ 256 < D then .error 3
  else .ok
    { role := if bit (r.p 1) 8 then .slave else .master
      channels := C
      frameBits := L
      divider := D
      shape := if bit (r.p 1) 9 then .span else .pulse
      check := if bit (r.p 1) 10 then .exact else .early
      idle := r.p 4 }

def State.stagePort (s : State) (p : Fin 4) (d : Option PortDef) : State :=
  { s with cmd := { s.cmd with staged := { s.cmd.staged with ports := s.cmd.staged.ports.set p.val d } } }

def definePort (r : CommandRecord) (s : State) : State × CommandResult :=
  withObject r s fun p =>
    if r.present then
      match portFields r with
      | .ok d => doneWith (s.stagePort p (some d))
      | .error i => failWith s .invalid i
    else doneWith (s.stagePort p none)

/-- DEFINE_PORT (R144, R145). -/
def execDefinePort (s : State) : Host.Outcome State Fault Refusal := execute .definePort definePort s

/-! ### DEFINE STREAM (R146) -/

/-- The burst codes (R50). -/
def burstCodes : List Nat := [0, 1, 2, 4, 8, 16]

/-- The fields of DEFINE STREAM, or the index of the first word out of range. -/
def streamFields (r : CommandRecord) : Except Nat StreamDef :=
  let top := low8 (r.p 2)
  let burst := high8 (r.p 2)
  let length := (r.p 3).toNat
  let hold := low8 (r.p 4)
  if 7 < top ∨ burst ∉ burstCodes then .error 2
  else if length < 16 ∨ 32768 < length then .error 3
  else if 250 < hold then .error 4
  else .ok
    { base := address ((r.p 1).toNat + 65536 * top)
      length := length
      burstCode := burst
      holdLimit := hold
      resume := if bit (r.p 0) 8 then .cleared else .auto
      starvation := high8 (r.p 4)
      runFrames := (r.p 5).toNat
      enables :=
        { lifecycle := bit (r.p 0) 9
          fault := bit (r.p 0) 10
          signal := bit (r.p 0) 11
          onset := bit (r.p 0) 12
          segment := bit (r.p 0) 13 } }

def State.stageStream (s : State) (n : Fin 8) (d : Option StreamDef) : State :=
  { s with cmd := { s.cmd with staged := { s.cmd.staged with streams := s.cmd.staged.streams.set n.val d } } }

def defineStream (r : CommandRecord) (s : State) : State × CommandResult :=
  withStream r s fun n =>
    if r.present then
      match streamFields r with
      | .ok d => doneWith (s.stageStream n (some d))
      | .error i => failWith s .invalid i
    else doneWith (s.stageStream n none)

/-- DEFINE_STREAM (R144, R146). -/
def execDefineStream (s : State) : Host.Outcome State Fault Refusal := execute .defineStream defineStream s

/-! ### DEFINE DETECTOR (R147) -/

/-- The fields of DEFINE DETECTOR, or the index of the first word out of range. -/
def detectorFields (r : CommandRecord) : Except Nat DetectorDef :=
  let b := field (r.p 1) 8 4
  let on := (r.p 2).toNat
  let off := (r.p 3).toNat
  let onTime := low8 (r.p 4)
  let offTime := high8 (r.p 4)
  if b < 3 ∨ 8 < b then .error 1
  else if 32767 < on then .error 2
  else if 32767 < off ∨ on < off then .error 3
  else if onTime < 1 ∨ offTime < 1 then .error 4
  else .ok
    { blockFrames := 2 ^ b
      mask := lowByte (r.p 1)
      onThreshold := on
      offThreshold := off
      onTime := onTime
      offTime := offTime
      gating := bit (r.p 0) 8 }

def State.stageDetector (s : State) (p : Fin 4) (d : Option DetectorDef) : State :=
  { s with cmd := { s.cmd with staged := { s.cmd.staged with detectors := s.cmd.staged.detectors.set p.val d } } }

def defineDetector (r : CommandRecord) (s : State) : State × CommandResult :=
  withObject r s fun p =>
    if r.present then
      match detectorFields r with
      | .ok d => doneWith (s.stageDetector p (some d))
      | .error i => failWith s .invalid i
    else doneWith (s.stageDetector p none)

/-- DEFINE_DETECTOR (R144, R147). -/
def execDefineDetector (s : State) : Host.Outcome State Fault Refusal := execute .defineDetector defineDetector s

/-! ### DEFINE WATCH (R148) -/

/-- The match mode field; its fourth value is no mode. -/
def matchModeOf : Nat → Option MatchMode
  | 0 => some .any
  | 1 => some .all
  | 2 => some .none
  | _ => none

/-- The fields of DEFINE WATCH, or the index of the first word out of range. -/
def watchFields (r : CommandRecord) : Except Nat WatchDef :=
  let top := low8 (r.p 2)
  match matchModeOf (field (r.p 0) 8 2) with
  | none => .error 0
  | some m =>
    if 7 < top then .error 2
    else .ok
      { addr := address ((r.p 1).toNat + 65536 * top)
        mask := r.p 3
        mode := m
        trigger := if bit (r.p 0) 10 then .enter else .each
        action := if bit (r.p 0) 11 then .block else .note }

def State.stageWatch (s : State) (w : Fin 4) (d : Option WatchDef) : State :=
  { s with cmd := { s.cmd with staged := { s.cmd.staged with watches := s.cmd.staged.watches.set w.val d } } }

def defineWatch (r : CommandRecord) (s : State) : State × CommandResult :=
  withObject r s fun w =>
    if r.present then
      match watchFields r with
      | .ok d => doneWith (s.stageWatch w (some d))
      | .error i => failWith s .invalid i
    else doneWith (s.stageWatch w none)

/-- DEFINE_WATCH (R144, R148). -/
def execDefineWatch (s : State) : Host.Outcome State Fault Refusal := execute .defineWatch defineWatch s

end Sys2Proof.Machine
end

