-- ==== Sys2Proof/Machine/Apply.lean ====
section
/-! DEFINITION. APPLY: the walk and the effects (07_commands.md section 7.4, R44 to R46, R52, R84, R85, R112, R134). -/

namespace Sys2Proof.Machine

open Sys2Proof

/-- The object set of an APPLY (R149). -/
structure ObjectSet where
  stream : Fin 8 → Bool
  port : Fin 4 → Bool
  detector : Fin 4 → Bool
  watch : Fin 4 → Bool

/-- Bit n of P0 names object n, bits 3–0 of P1 name objects 16 to 19 (R149). -/
def objectSet (r : CommandRecord) : ObjectSet :=
  { stream := fun n => bit (r.p 0) n.val
    port := fun p => bit (r.p 0) (8 + p.val)
    detector := fun p => bit (r.p 0) (12 + p.val)
    watch := fun w => bit (r.p 1) w.val }

/-! ### The resulting configuration (R149) -/

def State.wouldStream (s : State) (o : ObjectSet) (n : Fin 8) : Option StreamDef :=
  if o.stream n then s.cmd.staged.streams[n.val] else (s.stream n).active

def State.wouldPort (s : State) (o : ObjectSet) (p : Fin 4) : Option PortDef :=
  if o.port p then s.cmd.staged.ports[p.val] else (s.port p).active

def State.wouldDetector (s : State) (o : ObjectSet) (p : Fin 4) : Option DetectorDef :=
  if o.detector p then s.cmd.staged.detectors[p.val] else (s.detector p).active

def State.wouldWatch (s : State) (o : ObjectSet) (w : Fin 4) : Option WatchDef :=
  if o.watch w then s.cmd.staged.watches[w.val] else (s.watch w).active

/-! ### The checks -/

/-- ABSENT or IDLE. -/
def State.atRest (s : State) (n : Fin 8) : Bool := !(s.stream n).state.inRun

/-- Two word ranges share a word. -/
def overlap (base length base' length' : Nat) : Bool := decide (base < base' + length' ∧ base' < base + length)

/-- The consistency checks of a stream present in the resulting configuration (R150). -/
def State.streamFits (s : State) (o : ObjectSet) (n : Fin 8) (d : StreamDef) : Bool :=
  (match s.wouldPort o (portOf n) with
    | some q => d.length % q.channels == 0
    | none => false) &&
  decide (d.base.toNat + d.length ≤ 0x80000) &&
  !overlap d.base.toNat d.length s.controlBase 400 &&
  allStreams.all fun m => m == n ||
    match s.wouldStream o m with
    | some d' => !overlap d.base.toNat d.length d'.base.toNat d'.length
    | none => true

/-- The consistency checks of a detector (R150). -/
def State.detectorFits (s : State) (o : ObjectSet) (p : Fin 4) (d : DetectorDef) : Bool :=
  (s.wouldStream o (rxOf p)).isSome &&
    match s.wouldPort o p with
    | some q => decide (d.mask.toNat < 2 ^ q.channels)
    | none => false

/-- The consistency check of a watch (R150). -/
def State.watchFits (s : State) (o : ObjectSet) (d : WatchDef) : Bool :=
  !overlap d.addr.toNat 1 s.controlBase 400 &&
    allStreams.all fun n =>
      match s.wouldStream o n with
      | some d' => !d'.covers d.addr
      | none => true

/-- The first failed check of one object: BUSY if it is named and busy, CONFLICT if it is present and does not fit. -/
def checkObject (named busy : Bool) (present : Option Bool) (number : Nat) : Option (ResultCode × Nat) :=
  if named && busy then some (.busy, number)
  else match present with
    | some false => some (.conflict, number)
    | _ => none

/-- The walk over the objects in number order, 0 to 19 (R149). -/
def State.applyWalk (s : State) (o : ObjectSet) : Option (ResultCode × Nat) :=
  (allStreams.findSome? fun n =>
    checkObject (o.stream n) (!s.atRest n) ((s.wouldStream o n).map (s.streamFits o n)) n.val) <|>
  (allPorts.findSome? fun p =>
    checkObject (o.port p) (!(s.atRest (txOf p) && s.atRest (rxOf p))) none (8 + p.val)) <|>
  (allPorts.findSome? fun p =>
    checkObject (o.detector p) (!s.atRest (rxOf p)) ((s.wouldDetector o p).map (s.detectorFits o p)) (12 + p.val)) <|>
  (allPorts.findSome? fun w =>
    checkObject (o.watch w) false ((s.wouldWatch o w).map (s.watchFits o)) (16 + w.val))

/-! ### The effects (R152) -/

/-- The detector is set to QUIET with zero counts and peaks, its definition kept (R112). -/
def State.quietDetector (s : State) (p : Fin 4) : State := s.setDetector p (DetectorEntry.fresh (s.detector p).active)

/-- A named port is restarted or stopped (R84). -/
def State.applyPort (s : State) (p : Fin 4) : State :=
  (s.setPort p (PortEntry.fresh s.cmd.staged.ports[p.val])).quietDetector p

/-- The FIFO of a stream is emptied, its words not counted; for a transmit stream the condition becomes TAKING (R85). -/
def State.emptyFifo (s : State) (n : Fin 8) : State :=
  let p := portOf n
  if isTx n then s.setPort p { s.port p with txFifo := [], tx := .taking }
  else s.setPort p { s.port p with rxFifo := [], admitted := false }

/-- The access held on the ring of stream n is judged against the new ring (R45, R46). -/
def State.rejudgeHeld (s : State) (n : Fin 8) : State :=
  match s.path.phase with
  | .held h =>
    if h.ring = .stream n then
      match (s.stream n).active with
      | none => s.forward h.access .none
      | some d =>
        if d.covers h.access.addr then
          match h.access.kind with
          | .read => s.setPhase (.held { h with releasable := false })
          | .write _ =>
            match s.judge h.access (.stream n) (h.access.addr.toNat - d.base.toNat) 0 with
            | .pass e => s.forward h.access e
            | .hold | .substitute _ => s
        else s.forward h.access .none
    else s
  | _ => s

/-- A named stream is set from its staged definition (R44, R52, R85): its entry, its ring, its FIFO, its detector, the claims
on its old ring, and the access held on it. -/
def State.applyStream (s : State) (n : Fin 8) : State :=
  let p := portOf n
  let s1 := (s.dropClaims n).setStream n (StreamEntry.fresh s.cmd.staged.streams[n.val] (s.idleWord p))
  let s2 := (s1.setRing (.stream n) (Ring.fresh (some 0))).emptyFifo n
  let s3 := if isTx n then s2 else s2.quietDetector p
  s3.rejudgeHeld n

/-- A named detector (R112). -/
def State.applyDetector (s : State) (p : Fin 4) : State :=
  s.setDetector p (DetectorEntry.fresh s.cmd.staged.detectors[p.val])

/-- A named watch (R134). -/
def State.applyWatch (s : State) (w : Fin 4) : State := s.setWatch w (WatchEntry.fresh s.cmd.staged.watches[w.val])

/-- Every named object, ports first so that the replay values take the idle word as it stands after the APPLY (R52). -/
def State.applyAll (s : State) (o : ObjectSet) : State :=
  let s1 := (allPorts.filter o.port).foldl State.applyPort s
  let s2 := (allStreams.filter o.stream).foldl State.applyStream s1
  let s3 := (allPorts.filter o.detector).foldl State.applyDetector s2
  (allPorts.filter o.watch).foldl State.applyWatch s3

def applyCommand (r : CommandRecord) (s : State) : State × CommandResult :=
  match s.applyWalk (objectSet r) with
  | some (c, detail) => failWith s c detail
  | none => doneWith (s.applyAll (objectSet r))

/-- APPLY (R149 to R152). -/
def execApply (s : State) : Host.Outcome State Fault Refusal := execute .apply applyCommand s

end Sys2Proof.Machine
end

