-- ==== Sys2Proof/Machine/Arbiter.lean ====
section
/-! DEFINITION. ARBITER_GRANT: the requesters, the rule of the grant, and what each requester does at its grant
(01_the_memory_path.md, section 1.6). -/

namespace Sys2Proof.Machine

open Sys2Proof

/-- The part requesters in rank order (R15). -/
def allRequesters : List Requester := [.deposit, .fetch, .record, .command]

/-- Rank less one. -/
def Requester.index : Requester → Fin 4
  | .deposit => 0
  | .fetch => 1
  | .record => 2
  | .command => 3

/-- The passed-over count of a part requester. -/
def State.passedOver (s : State) (r : Requester) : Nat := s.arb.counts[r.index.val]

/-- PASSAGE waits: an access is forwarded and is not in its memory cycle (R15). -/
def State.passageWaiting (s : State) : Bool :=
  match s.path.phase with
  | .forwarded _ _ => s.arb.use != .passage
  | _ => false

/-- The Record Writer has the identity block to write (R171). -/
def State.identityDue (s : State) : Bool :=
  s.start.identity.phase == .firstDue || s.start.identity.phase == .secondDue

/-- Whether a part requester requests the memory port (R66, R70, R136, R169, R171). -/
def State.requesting (s : State) : Requester → Bool
  | .deposit => allPorts.any s.depositEligible
  | .fetch => allPorts.any s.fetchEligible
  | .record => s.identityDue || (!s.events.queue.isEmpty && decide ((s.ring .event).fill < s.slotCount .event))
  | .command => match s.cmd.state with
    | .reading _ | .writing _ _ => true
    | .waiting | .executing _ => false

/-- The requester with the largest passed-over count, the one of highest rank among equals (R16). -/
def State.mostPassedOver (s : State) : List Requester → Option Requester
  | [] => none
  | r :: rs =>
    match s.mostPassedOver rs with
    | none => some r
    | some q => if s.passedOver q ≤ s.passedOver r then some r else some q

/-- The counts after a grant: a waiting requester that is not granted is passed over once more, the granted one starts at 0
(R16). -/
def State.countGrant (s : State) (granted : Option Requester) : State :=
  let after := fun (r : Requester) =>
    if granted = some r then 0 else if s.requesting r then s.passedOver r + 1 else s.passedOver r
  { s with arb := { s.arb with counts := #v[after .deposit, after .fetch, after .record, after .command] } }

/-- FETCH_BURST_START (R67): the stream served, and a burst of the least of B, the fill, the free places, and the words left
before the limit. -/
def State.startFetch (s : State) : State :=
  match nextServed s.engines.lastFetch s.fetchEligible with
  | none => s
  | some p =>
    let n := txOf p
    let e := s.stream n
    match e.active with
    | none => s
    | some d =>
      let v := s.ring (.stream n)
      let room := min (d.burst (s.channels p)) (min v.fill (fifoPlaces - (s.port p).txFifo.length))
      let words := match e.limit with
        | none => room
        | some l => min room (l - e.fetched)
      let reads := (slotsFrom d.length v.consumer words).map fun i => address (d.base.toNat + i)
      ({ s with engines := { s.engines with lastFetch := p } }).setUse
        (.fetch { port := p, reads := reads, ringStands := true, runStands := true })

/-- DEPOSIT_BURST_START (R71): the stream served, and a burst of the least of B, the samples ahead of the next mark, and the
free slots; the samples leave the head of the RX FIFO at the grant. -/
def State.startDeposit (s : State) : State :=
  match nextServed s.engines.lastDeposit s.depositEligible with
  | none => s
  | some p =>
    let n := rxOf p
    match (s.stream n).active with
    | none => s
    | some d =>
      let v := s.ring (.stream n)
      let samples := headSamples (s.port p).rxFifo
      let words := min (d.burst (s.channels p)) (min samples.length (d.length - v.fill))
      let writes := ((slotsFrom d.length v.producer words).map fun i => address (d.base.toNat + i)).zip (samples.take words)
      let s1 := s.setPort p { s.port p with rxFifo := (s.port p).rxFifo.drop words }
      ({ s1 with engines := { s1.engines with lastDeposit := p } }).setUse
        (.deposit { port := p, writes := writes, ringStands := true, runStands := true })

/-- EVENT_DEQUEUE (R169 to R171): the identity burst that is due, or the head of the pending queue with its record. -/
def State.startRecord (s : State) : State :=
  match s.start.identity.phase with
  | .firstDue =>
    ({ s with start := { s.start with identity := { s.start.identity with phase := .secondDue } } }).setUse
      (.identityFirst (placed s.controlBase s.identityWords0))
  | .secondDue =>
    ({ s with start := { s.start with identity := { s.start.identity with phase := .finishing } } }).setUse
      (.identitySecond (placed (s.controlBase + 8) s.identityWords1))
  | .idle | .finishing =>
    match s.events.queue with
    | [] => s
    | q :: queue =>
      let v := s.ring .event
      ({ s with events := { s.events with queue := queue } }).setUse
        (.eventRecord (placed (s.recordBase .event v.producer) (eventWords q (v.fill + 1))))

/-- The Command Unit's grant: the read of the record, or its result (R137, R140). -/
def State.startCommand (s : State) : State :=
  match s.cmd.state with
  | .reading _ => s.setUse .commandRead
  | .writing r res => s.setUse (.commandResult (s.resultWrites r res))
  | .waiting | .executing _ => s

def State.startBurst (s : State) : Requester → State
  | .deposit => s.startDeposit
  | .fetch => s.startFetch
  | .record => s.startRecord
  | .command => s.startCommand

/-- The grant (R16): PASSAGE if it waits and no waiting part requester has been passed over twice; otherwise the part
requester passed over most. -/
def State.grant (s : State) : State :=
  let waiting := allRequesters.filter s.requesting
  if s.passageWaiting && waiting.all (fun r => decide (s.passedOver r < 2)) then (s.countGrant none).setUse .passage
  else match s.mostPassedOver waiting with
    | some r => (s.countGrant (some r)).startBurst r
    | none => s

/-- ARBITER_GRANT (R16): with the memory port free and a requester waiting; otherwise there is no grant. An access that arrived with
RST# low and is still on the transparent path in STARTING (R21) leaves the port free for a grant: the spec is silent, and this is the
model's choice (log 28). -/
def execArbiterGrant (s : State) : Host.Outcome State Fault Refusal :=
  whenLive (fun s =>
    match s.arb.use with
    | .free => s.grant
    | _ => s) s

end Sys2Proof.Machine
end

