-- ==== Sys2Proof/Machine/Engines.lean ====
section
/-! DEFINITION. The steps of the Fetch and Deposit Engines: FETCH_WORD_COMPLETE, DEPOSIT_WORD_COMPLETE, RX_STOPPING_DRAINED,
RX_RUN_COMPLETE (02_rings.md section 2.5, 03_streams_and_runs.md sections 3.3 to 3.6). -/

namespace Sys2Proof.Machine

open Sys2Proof

/-- The memory port after a word of a fetch burst: the burst goes on, or the port is free (R17). -/
def FetchBurst.next (b : FetchBurst) : PortUse :=
  match b.reads.tail with
  | [] => .free
  | reads => .fetch { b with reads := reads }

/-- The memory port after a word of a deposit burst. -/
def DepositBurst.next (b : DepositBurst) : PortUse :=
  match b.writes.tail with
  | [] => .free
  | writes => .deposit { b with writes := writes }

/-- A word read for a stream joins its TX FIFO and counts as fetched while the stream is PENDING, RUNNING or STOPPING; in any
other state it is dropped (R67, R68). -/
def State.joinTx (s : State) (p : Fin 4) (w : Word) : State :=
  let n := txOf p
  let e := s.stream n
  match e.state with
  | .pending | .running | .stopping =>
    ((s.setStream n { e with fetched := e.fetched + 1 }).setPort p
      { s.port p with txFifo := (s.port p).txFifo ++ [w] }).checkLimit n
  | .absent | .idle | .armed => s

/-- A word of a fetch burst completes: the slot is consumed, a posting held on it is released, the word joins the TX FIFO (R37,
R41) unless the run it was read for is over (R68). With the ring recreated or removed there is no ring effect and the word is
dropped (R35, R68, R153). -/
def State.fetchWord (s : State) (b : FetchBurst) (a : Addr) : State :=
  let r := RingId.stream (txOf b.port)
  let s1 := s.setUse b.next
  if b.ringStands then
    let s2 := (s1.consumeRing r).releaseAt r (s.ring r).consumer
    if b.runStands then s2.joinTx b.port (Memory.word s.mem a) else s2
  else s1

/-- FETCH_WORD_COMPLETE (R37). -/
def execFetchWordComplete (s : State) : Host.Outcome State Fault Refusal :=
  whenLive (fun s =>
    match s.arb.use with
    | .fetch b =>
      match b.reads with
      | a :: _ => s.fetchWord b a
      | [] => s.setUse .free
    | _ => s) s

/-- A deposited word counts for the run, and for the open segment, while the stream is RUNNING or STOPPING (R71, R125). -/
def State.countDeposit (s : State) (p : Fin 4) : State :=
  let n := rxOf p
  let e := s.stream n
  match e.state with
  | .running | .stopping =>
    s.setStream n { e with
      deposited := e.deposited + 1
      segWords := if e.segOpen then e.segWords + 1 else e.segWords }
  | .absent | .idle | .armed | .pending => s

/-- A word of a deposit burst completes: it is in memory, its slot is filled, a read held on it is released, and after the
burst's last word the marks at the head are processed (R39, R41, R69). With the ring recreated or removed there is no ring
effect and the word is dropped (R35, R71, R153, R186): it does not reach memory (log 8). -/
def State.depositWord (s : State) (b : DepositBurst) (a : Addr) (w : Word) : State :=
  let r := RingId.stream (rxOf b.port)
  let s1 := s.setUse b.next
  if b.ringStands then
    let s2 := { s1 with mem := Memory.store s1.mem a true true w }
    let s3 := (s2.fillRing r).releaseAt r (s.ring r).producer
    (if b.runStands then s3.countDeposit b.port else s3).processMarks b.port
  else s1

/-- DEPOSIT_WORD_COMPLETE (R39). -/
def execDepositWordComplete (s : State) : Host.Outcome State Fault Refusal :=
  whenLive (fun s =>
    match s.arb.use with
    | .deposit b =>
      match b.writes with
      | (a, w) :: _ => s.depositWord b a w
      | [] => s.setUse .free
    | _ => s) s

/-- RX_STOPPING_DRAINED (R58): a receive stream in STOPPING whose FIFO is drained becomes IDLE, reason STOPPED. -/
def execRxStoppingDrained (p : Fin 4) (s : State) : Host.Outcome State Fault Refusal :=
  whenLive (fun s =>
    if (s.stream (rxOf p)).state = .stopping ∧ s.drained p = true then s.endRun (rxOf p) .stopped else s) s

/-- RX_RUN_COMPLETE (R65): a receive stream in RUNNING with its limit reached and its FIFO drained becomes IDLE, reason
COMPLETE. -/
def execRxRunComplete (p : Fin 4) (s : State) : Host.Outcome State Fault Refusal :=
  whenLive (fun s =>
    if (s.stream (rxOf p)).state = .running ∧ (s.stream (rxOf p)).limitReached = true ∧ s.drained p = true then
      s.endRun (rxOf p) .complete
    else s) s

end Sys2Proof.Machine
end

