-- ==== Sys2Proof/Machine/Part.lean ====
section
/-! DEFINITION. The steps of the part's own pins and timebase: TRIG_EDGE, TAGCLK_EDGE, INTERNAL_TIME_TAG_INCREASE, RST_FALL,
RST_RISE, and the microsecond that passes when no command waits (09_start_up_and_straps.md, R20, R54, R177). -/

namespace Sys2Proof.Machine

open Sys2Proof

/-! ### TRIG -/

/-- The ARMED streams in number order. -/
def State.armedStreams (s : State) : List (Fin 8) := allStreams.filter fun n => (s.stream n).state == .armed

/-- One bit for each stream of a list (R54). -/
def streamBits (ns : List (Fin 8)) : Nat := ns.foldl (fun acc n => acc + 2 ^ n.val) 0

/-- An ARMED entry becomes PENDING. -/
def StreamEntry.triggered (e : StreamEntry) : StreamEntry :=
  match e.state with
  | .armed => { e with state := .pending }
  | .absent | .idle | .pending | .running | .stopping => e

/-- TRIG_EDGE (R54). -/
def execTrigEdge (s : State) : Host.Outcome State Fault Refusal :=
  whenLive (fun s =>
    match s.armedStreams with
    | [] => s
    | ns => { s with streams := map8 StreamEntry.triggered s.streams }.raisePart .trigger partSource (word (streamBits ns)) 0 0) s

/-! ### The time tag (R177) -/

def State.countTag (s : State) : State := { s with time := { s.time with counter := s.time.counter + 1 } }

/-- TAGCLK_EDGE: counts under source EXTERNAL, and has no effect under INTERNAL. -/
def execTagclkEdge (s : State) : Host.Outcome State Fault Refusal :=
  whenLive (fun s => if s.time.source = .external then s.countTag else s) s

/-- INTERNAL_TIME_TAG_INCREASE: counts under source INTERNAL. -/
def execInternalTimeTagIncrease (s : State) : Host.Outcome State Fault Refusal :=
  whenLive (fun s => if s.time.source = .internal then s.countTag else s) s

/-! ### RST# -/

/-- The writes of the burst on the memory port that are still to reach memory; a deposit burst without its ring has none, since
its words are dropped (R153, R186, log 8). -/
def PortUse.writes : PortUse → List (Addr × Word)
  | .deposit b => if b.ringStands then b.writes else []
  | .commandResult ws | .eventRecord ws | .identityFirst ws | .identitySecond ws => ws
  | .free | .passage | .fetch _ | .commandRead => []

/-- A record burst, whose completed words the state does not count (log 7). -/
def PortUse.isRecord : PortUse → Bool
  | .commandResult _ | .eventRecord _ | .identityFirst _ | .identitySecond _ => true
  | .free | .passage | .fetch _ | .deposit _ | .commandRead => false

/-- A burst is cut (R20): the words completed are in memory, the word whose cycle was cut is old or new, the others are old.
Both open points are free values (log 7). -/
def State.cutBurst (s : State) : State :=
  let ws := s.arb.use.writes
  let done := if s.arb.use.isRecord then Config.cutWordsDone s.freeCount % ws.length else 0
  let landed := if Config.cutWordLands s.freeCount then done + 1 else done
  match ws with
  | [] => s
  | _ => { s with mem := Memory.storeAll s.mem (ws.take landed), freeCount := s.freeCount + 1 }

/-- The access under way goes straight to the RAM on the transparent path, with no ring effect (R20). -/
def State.cutAccess (s : State) : State :=
  let onBus : PathPhase := if s.path.bus.isNone then .ready else .transparent
  match s.path.phase with
  | .held h => (s.ramAccess h.access).setPhase onBus
  | .forwarded a _ => (s.ramAccess a).setPhase onBus
  | .ready | .ended | .transparent => s

/-- What is left of the Path Unit while RST# is low: a bus without an access, or with one on the transparent path (R19). -/
def PathPhase.onTransparentPath : PathPhase → PathPhase
  | .ready => .ready
  | .held _ | .forwarded _ _ | .ended | .transparent => .transparent

/-- Every block as reset leaves it; the RAM, what is on the processor port, PD and the queue stay. -/
def State.cleared (s : State) (start : StartUp) : State :=
  { State.reset with
    start := start
    path := { s.path with phase := s.path.phase.onTransparentPath }
    mem := s.mem
    freeCount := s.freeCount
    pending := s.pending }

/-- RST_FALL (R20, R48, R81, R109, R128, R135, R141, R176, R179, R180, R189), from any part state but RESET. -/
def execRstFall (s : State) : Host.Outcome State Fault Refusal :=
  match s.start.part with
  | .reset => .next s
  | .safe | .starting | .operating =>
    let s1 := s.cutBurst.cutAccess
    .next (s1.cleared { s1.start with part := .reset, identity := { phase := .idle, owed := false } })

/-- Whether the five straps hold an odd number of ones (R181). -/
def strapsOdd (base : BitVec 4) (bpar : Bool) : Bool :=
  (((base.getLsbD 0 ^^ base.getLsbD 1) ^^ base.getLsbD 2) ^^ base.getLsbD 3) ^^ bpar

/-- RST_RISE (R18, R21, R48, R72, R181 to R183): the straps are sampled; with an odd number of ones the part enters STARTING
and asks for the identity block, with an even number it enters SAFE. -/
def execRstRise (base : BitVec 4) (bpar : Bool) (s : State) : Host.Outcome State Fault Refusal :=
  match s.start.part with
  | .reset =>
    let good := strapsOdd base bpar
    .next (s.cleared
      { part := if good then .starting else .safe
        base := base
        bpar := bpar
        cause := .pin
        identity := { phase := if good then .firstDue else .idle, owed := false } })
  | .safe | .starting | .operating => .next s

/-! ### A microsecond of the part's own timebase (log 2) -/

/-- A count of microseconds goes on, up to its limit. -/
def countUp (limit n : Nat) : Nat := if n < limit then n + 1 else n

/-- The starvation limit in microseconds (R76). -/
def StreamDef.starvationLimit (d : StreamDef) : Nat := if d.starvation = 0 then 1000000 else d.starvation * 5000

/-- A running starvation timer counts. -/
def StreamEntry.tick (e : StreamEntry) : StreamEntry :=
  match e.active, e.starvation with
  | some d, some t => { e with starvation := some (countUp d.starvationLimit t) }
  | _, _ => e

/-- The time held counts (R12). -/
def PathPhase.tick : PathPhase → PathPhase
  | .held h => .held { h with time := countUp h.limit h.time }
  | ph => ph

/-- What the counters between two rows of the table count: the time held, the starvation timers and the INT# pulse. The events
at their limits have rows of their own. -/
def State.tick (s : State) : State :=
  if s.live then
    { s with
      path := { s.path with phase := s.path.phase.tick }
      streams := map8 StreamEntry.tick s.streams
      events := { s.events with pulse := s.events.pulse.map (countUp 1) } }
  else s

end Sys2Proof.Machine
end

