-- ==== Sys2Proof/Machine/StreamCommands.lean ====
section
/-! DEFINITION. The stream commands: START, STOP, ABORT, EXTEND, SET LEVEL, CLEAR FAULT (07_commands.md section 7.5,
03_streams_and_runs.md). -/

namespace Sys2Proof.Machine

open Sys2Proof

/-! ### START (R53, R85, R112) -/

/-- The entry at the start of a run. The fault flags, the counts, the attenuation and the mute are kept. -/
def StreamEntry.begun (e : StreamEntry) (d : StreamDef) (C : Nat) (idle : Word) (armed gateOpen : Bool) : StreamEntry :=
  { e with
    state := if armed then .armed else .pending
    stopping := none
    limit := if d.runFrames = 0 then none else some (C * d.runFrames)
    limitReached := false
    extension := none
    fetched := 0
    taken := 0
    sent := 0
    admitted := 0
    deposited := 0
    discarded := 0
    k := 0
    replay := Vector.replicate 8 idle
    starvation := none
    gateOpen := gateOpen
    segOpen := false
    segWords := 0 }

/-- Begins a run of an IDLE stream. A transmit port takes from k = 0; a receive stream's detector is QUIET and its gate is
open unless gating is on. -/
def State.beginRun (s : State) (n : Fin 8) (d : StreamDef) (armed : Bool) : State :=
  let p := portOf n
  let gateOpen := !isTx n && !s.gating p
  let s1 := s.setStream n ((s.stream n).begun d (s.channels p) (s.idleWord p) armed gateOpen)
  if isTx n then s1.setPort p { s1.port p with txFifo := [], tx := .taking }
  else (s1.setPort p { s1.port p with rxFifo := [], admitted := false }).setDetector p
    (DetectorEntry.fresh (s1.detector p).active)

def startCommand (r : CommandRecord) (s : State) : State × CommandResult :=
  withStream r s fun n => withPresent n s fun e =>
    match e.state, e.active with
    | .idle, some d => doneWith (s.beginRun n d (bit (r.p 0) 8))
    | _, _ => failWith s .busy n.val

/-- START (R53, R154). -/
def execStart (s : State) : Host.Outcome State Fault Refusal := execute .start startCommand s

/-! ### STOP (R56, R58, R121) -/

/-- The entry of a RUNNING stream that becomes STOPPING by STOP; the starvation timer is stopped. -/
def StreamEntry.toStopping (e : StreamEntry) : StreamEntry :=
  { e with state := .stopping, stopping := some .stopped, starvation := none }

/-- STOP of a RUNNING receive stream: STOPPING, an open gate closed with an END mark, the marks at the head processed, and
IDLE at once if the FIFO is drained (R58). -/
def State.stopRx (s : State) (p : Fin 4) : State :=
  let n := rxOf p
  let s1 := ((s.setStream n (s.stream n).toStopping).closeGate p).processMarks p
  if s1.drained p then s1.endRun n .stopped else s1

def State.stopStream (s : State) (n : Fin 8) : State :=
  let p := portOf n
  match (s.stream n).state with
  | .absent | .idle | .stopping => s
  | .armed => s.endRun n .stopped
  | .pending => (if isTx n then s.throwOutTx p else s).endRun n .stopped
  | .running => if isTx n then s.setStream n (s.stream n).toStopping else s.stopRx p

def stopCommand (r : CommandRecord) (s : State) : State × CommandResult :=
  withStream r s fun n => withPresent n s fun _ => doneWith (s.stopStream n)

/-- STOP (R56, R154). -/
def execStop (s : State) : Host.Outcome State Fault Refusal := execute .stop stopCommand s

/-! ### ABORT (R59, R126) -/

def State.abortStream (s : State) (n : Fin 8) (why : EndReason) : State :=
  if (s.stream n).state.inRun then s.cutRun n why else s

def abortCommand (r : CommandRecord) (s : State) : State × CommandResult :=
  withStream r s fun n => withPresent n s fun _ => doneWith (s.abortStream n .aborted)

/-- ABORT (R59, R154). -/
def execAbort (s : State) : Host.Outcome State Fault Refusal := execute .abort abortCommand s

/-! ### EXTEND (R61, R155) -/

def extendCommand (r : CommandRecord) (s : State) : State × CommandResult :=
  withStream r s fun n => withPresent n s fun e =>
    let frames := (r.p 1).toNat
    if frames = 0 then failWith s .invalid 1
    else if e.state = .idle ∨ e.state = .stopping ∨ e.limitReached = true then failWith s .late 0
    else if e.limit = none then failWith s .invalid 0
    else if e.extension ≠ none then failWith s .busy n.val
    else doneWith (s.setStream n { e with extension := some frames })

/-- EXTEND (R61, R155). -/
def execExtend (s : State) : Host.Outcome State Fault Refusal := execute .extend extendCommand s

/-! ### SET LEVEL (R79, R156) -/

def setLevelCommand (r : CommandRecord) (s : State) : State × CommandResult :=
  withStream r s fun n =>
    if isTx n then withPresent n s fun e =>
      let a := low8 (r.p 1)
      if 3 < a then failWith s .invalid 1
      else doneWith (s.setStream n { e with attenuation := a, mute := bit (r.p 1) 8 })
    else failWith s .invalid 0

/-- SET_LEVEL (R79, R156). -/
def execSetLevel (s : State) : Host.Outcome State Fault Refusal := execute .setLevel setLevelCommand s

/-! ### CLEAR FAULT (R75, R157) -/

def clearFaultCommand (r : CommandRecord) (s : State) : State × CommandResult :=
  withStream r s fun n => withPresent n s fun e => doneWith (s.setStream n (e.clearFlags (r.p 1)))

/-- CLEAR_FAULT (R75, R157). -/
def execClearFault (s : State) : Host.Outcome State Fault Refusal := execute .clearFault clearFaultCommand s

end Sys2Proof.Machine
end

