-- ==== Sys2Proof/Machine/PartCommands.lean ====
section
/-! DEFINITION. The queries (07_commands.md section 7.6) and the part commands: SET TIME, SET LINE, NOP, UNKNOWN, RESET PART
(section 7.7, 09_start_up_and_straps.md section 9.3). -/

namespace Sys2Proof.Machine

open Sys2Proof

/-! ### Queries -/

/-- QUERY STREAM's response words (R158, R191). -/
def State.streamResponse (s : State) (n : Fin 8) : Vector Word 6 :=
  let e := s.stream n
  let v := s.ring (.stream n)
  let p0 := word (n.val + 256 * e.state.number)
  match e.state with
  | .absent => #v[p0, 0, 0, 0, 0, 0]
  | .idle | .armed | .pending | .running | .stopping =>
    #v[p0, e.flagWord n, word v.producer, word v.consumer, word v.fill,
      word (e.framesRemaining n (s.channels (portOf n)))]

def queryStream (r : CommandRecord) (s : State) : State × CommandResult :=
  withStream r s fun n => (s, CommandResult.okWith (s.streamResponse n))

/-- QUERY_STREAM (R158). -/
def execQueryStream (s : State) : Host.Outcome State Fault Refusal := execute .queryStream queryStream s

/-- A fault count as QUERY FAULTS reports it: 0 for a fault the stream cannot have (R75, R159). -/
def StreamEntry.reported (e : StreamEntry) (n : Fin 8) (f : StreamFault) : Word :=
  if f.applies n then word (e.faultCount f) else 0

/-- QUERY FAULTS's response words (R159). -/
def StreamEntry.faultResponse (e : StreamEntry) (n : Fin 8) : Vector Word 6 :=
  #v[e.reported n .underrun, e.reported n .overrun, e.reported n .frame, e.reported n .refused, e.reported n .empty,
    e.reported n .order]

def queryFaults (r : CommandRecord) (s : State) : State × CommandResult :=
  withStream r s fun n =>
    let e := s.stream n
    (if bit (r.p 0) 8 then s.setStream n e.clearCounts else s, CommandResult.okWith (e.faultResponse n))

/-- QUERY_FAULTS (R159). -/
def execQueryFaults (s : State) : Host.Outcome State Fault Refusal := execute .queryFaults queryFaults s

/-- P0 of QUERY PORT: C in bits 3–0, role in bit 8, present in bit 15; 0 for an absent port (R191). -/
def portSummary : Option PortDef → Word
  | none => 0
  | some d => word (d.channels + (match d.role with
    | .master => 0
    | .slave => 256) + 32768)

/-- QUERY PORT's response words (R160, R191). -/
def State.portResponse (s : State) (p : Fin 4) : Vector Word 6 :=
  let q := s.port p
  let d := s.detector p
  #v[portSummary q.active, q.framesSeen, word q.txFifo.length, word (sampleCount q.rxFifo),
    word (markCount q.rxFifo + 256 * d.state.number), word d.last]

def queryPort (r : CommandRecord) (s : State) : State × CommandResult :=
  withObject r s fun p => (s, CommandResult.okWith (s.portResponse p))

/-- QUERY_PORT (R160). -/
def execQueryPort (s : State) : Host.Outcome State Fault Refusal := execute .queryPort queryPort s

/-! ### Part commands -/

def setTime (r : CommandRecord) (s : State) : State × CommandResult :=
  if 1 < (r.p 2).toNat then failWith s .invalid 2
  else doneWith { s with time :=
    { counter := r.p 1 ++ r.p 0, source := if (r.p 2).toNat = 0 then .internal else .external } }

/-- SET_TIME (R161, R178). -/
def execSetTime (s : State) : Host.Outcome State Fault Refusal := execute .setTime setTime s

/-- The Event Unit after SET LINE (R174): a pulse under way goes on only from PULSE to PULSE. -/
def EventUnit.setLine (u : EventUnit) (m : LineMode) : EventUnit :=
  match u.line, m with
  | .pulse, .pulse => u
  | _, _ => { u with line := m, pulse := none }

def setLine (r : CommandRecord) (s : State) : State × CommandResult :=
  if 1 < (r.p 0).toNat then failWith s .invalid 0
  else doneWith { s with events := s.events.setLine (if (r.p 0).toNat = 0 then .level else .pulse) }

/-- SET_LINE (R162, R174). -/
def execSetLine (s : State) : Host.Outcome State Fault Refusal := execute .setLine setLine s

/-- NOP (R163): DONE with no effect. -/
def execNop (s : State) : Host.Outcome State Fault Refusal := execute .nop (fun _ s => doneWith s) s

/-- UNKNOWN_COMMAND (R164): a code that is none of R138's returns UNKNOWN with no effect. -/
def execUnknownCommand (s : State) : Host.Outcome State Fault Refusal :=
  execute .unknownCommand (fun _ s => failWith s .unknown 0) s

/-! ### RESET PART (R186, R187) -/

/-- Step 1: every stream in a run is ended as ABORT ends it, with reason RESET, in number order (R80, R127). -/
def State.endStreams (s : State) : State := allStreams.foldl (fun s n => s.abortStream n .reset) s

/-- Step 2: every active and staged definition is removed, with the stream rings; claims on those rings make no effect any
more (R35, R47, R109, R127, R135). -/
def State.removeDefinitions (s : State) : State :=
  let s1 := allStreams.foldl State.dropClaims s
  { s1 with
    streams := State.reset.streams
    rings := { s1.rings with stream := State.reset.rings.stream }
    ports := State.reset.ports
    detectors := State.reset.detectors
    watches := State.reset.watches
    cmd := { s1.cmd with staged := Staged.none } }

/-- The first three steps of the soft reset, taken whole (R186): step 3 releases a held access as a pass-through. -/
def State.softReset (s : State) : State := s.endStreams.removeDefinitions.passThrough

/-- RESET_PART (R165, R186): always DONE. The identity block and STARTED follow its result (R188). -/
def execResetPart (s : State) : Host.Outcome State Fault Refusal := execute .resetPart (fun _ s => doneWith s.softReset) s

end Sys2Proof.Machine
end

