-- ==== Sys2Proof/Machine/Path.lean ====
section
/-! DEFINITION. The steps of the processor's accesses: ACCESS_ARRIVAL, PASSAGE_COMPLETE, HOLD_EXPIRY, PCS_OR_STROBES_HIGH
(01_the_memory_path.md). -/

namespace Sys2Proof.Machine

open Sys2Proof

/-- A decoded access in STARTING or OPERATING (R2, R4 to R7): with no lane selected it is forwarded with no effect; a ring
access is judged; a write outside every window is handed to the Watch Unit; everything else passes. -/
def State.takeAccess (s : State) (a : Access) : State :=
  if !a.high && !a.low then s.forward a .none
  else match s.decode a.addr with
    | .identity => s.forward a .none
    | .ring r slot word => s.answer a r slot word (s.judge a r slot word)
    | .outside =>
      match a.kind with
      | .read => s.forward a .none
      | .write d => s.watchWrite a d

/-- ACCESS_ARRIVAL (R1, R4, R8, R19). In RESET and SAFE the access reaches memory unchanged, at once, with PRDY high. In
STARTING and OPERATING it is taken when the Path Unit is ready; otherwise, and with no strobe low, nothing arrives. -/
def execAccessArrival (c : BusCycle) (s : State) : Host.Outcome State Fault Refusal :=
  match busAccess c with
  | none => .next s
  | some a =>
    if s.live then
      match s.path.phase with
      | .ready => .next ((s.setBus (some c)).takeAccess a)
      | _ => .next s
    else .next (((s.setBus (some c)).ramAccess a).setPhase .transparent)

/-- The ring effect of a completed access (R26, R29, R31, R35); a posting on the command ring may be taken (R137). -/
def State.makeEffect (s : State) : Effect → State
  | .none => s
  | .post r =>
    match r with
    | .command => (s.fillRing r).takeCommand
    | .stream _ | .event => s.fillRing r
  | .consume r => s.consumeRing r
  | .order n slot => s.occur n .order slot

/-- PASSAGE_COMPLETE (R3): the granted access's memory cycle completes, PRDY rises, the ring effects are made. -/
def execPassageComplete (s : State) : Host.Outcome State Fault Refusal :=
  whenLive (fun s =>
    match s.path.phase, s.arb.use with
    | .forwarded a e, .passage => (((s.setUse .free).ramAccess a).endAccess).makeEffect e
    | _, _ => s) s

/-- HOLD_EXPIRY (R12, R27, R32): the time held reaches the hold limit. The event brings the rest of the time with it; with no
access held there is nothing to act on and it is not taken (R42, log 2). -/
def execHoldExpiry (s : State) : Host.Outcome State Fault Refusal :=
  whenLive (fun s =>
    match s.path.phase with
    | .held h => s.expire h.access h.ring h.slot
    | _ => s) s

/-- PCS_OR_STROBES_HIGH (R1, R19, R21): the port shows no access any more. After PRDY has risen the Path Unit may take a new
arrival; before, the access is carried to its end regardless. -/
def execPcsOrStrobesHigh (s : State) : Host.Outcome State Fault Refusal :=
  match s.path.phase with
  | .ready | .ended | .transparent => .next ((s.setBus none).setPhase .ready)
  | .held _ | .forwarded _ _ => .next (s.setBus none)

end Sys2Proof.Machine
end

