-- ==== Sys2Proof/Machine/Transmit.lean ====
section
/-! DEFINITION. The sending side of a sample port: CHANNEL_SLOT_START and STARVATION_EXPIRY (04_sample_ports.md section 4.3,
03_streams_and_runs.md section 3.8). -/

namespace Sys2Proof.Machine

open Sys2Proof

/-- The value sent for a taken word: the idle word under mute, else the word shifted right arithmetically by the attenuation
(R94). -/
def sentValue (e : StreamEntry) (idle w : Word) : Word := if e.mute then idle else w.sshiftRight e.attenuation

/-- A channel position one further, wrapping from C − 1 to 0 (R93). -/
def nextChannel (C k : Nat) : Nat := if k + 1 < C then k + 1 else 0

/-- The replay value of a channel. -/
def StreamEntry.replayOf (e : StreamEntry) (c : Nat) : Word := e.replay.getD c 0

/-- The entry after a word has been taken and sent as `v` in channel c (R51, R93, R94). -/
def StreamEntry.took (e : StreamEntry) (C c : Nat) (v : Word) : StreamEntry :=
  { e with
    taken := e.taken + 1
    sent := e.sent + 1
    k := nextChannel C e.k
    replay := e.replay.setIfInBounds c v }

/-- The run words not yet taken, or C for an endless run (R96). -/
def StreamEntry.wordsLeft (e : StreamEntry) (C : Nat) : Nat :=
  match e.limit with
  | none => C
  | some l => l - e.taken

/-- The TX FIFO holds enough words to resume (R96). -/
def State.enoughWords (s : State) (p : Fin 4) : Bool :=
  let C := s.channels p
  decide (min C ((s.stream (txOf p)).wordsLeft C) ≤ (s.port p).txFifo.length)

/-- Under CLEARED a set UNDERRUN flag holds the stream back (R74, R96). -/
def StreamEntry.heldBack (e : StreamEntry) (f : StreamFault) : Bool :=
  match e.active with
  | some d => d.resume == .cleared && e.flag f
  | none => false

/-- SDOn carries a word for the slot, and nothing else changes. -/
def State.sendWord (s : State) (p : Fin 4) (w : Word) : State := s.setPort p { s.port p with slotWord := w }

/-- WORD_TAKEN (R93, R94): the head word leaves the FIFO and is sent in channel c. -/
def State.takeWord (s : State) (p : Fin 4) (c : Nat) (w : Word) (rest : List Word) : State :=
  let n := txOf p
  let e := s.stream n
  let v := sentValue e (s.idleWord p) w
  (s.setStream n (e.took (s.channels p) c v)).setPort p { s.port p with txFifo := rest, slotWord := v }

/-- UNDERRUN_EPISODE_BEGIN (R95): the replay value is sent, the condition becomes WAITING, one UNDERRUN occurs, and the
starvation timer of a RUNNING stream starts from 0. -/
def State.beginUnderrun (s : State) (p : Fin 4) (c : Nat) : State :=
  let n := txOf p
  let e := s.stream n
  let s1 := s.setPort p { s.port p with tx := .waiting, slotWord := e.replayOf c }
  let s2 := if e.state = .running then s1.setStream n { e with starvation := some 0 } else s1
  s2.occur n .underrun c

/-- TX_RESUME (R97): taking again, the starvation timer stopped, and the head word taken. -/
def State.resumeTaking (s : State) (p : Fin 4) (c : Nat) (w : Word) (rest : List Word) : State :=
  let n := txOf p
  ((s.setStream n { s.stream n with starvation := none }).setPort p { s.port p with tx := .taking }).takeWord p c w rest

/-- What a slot of channel c carries while the stream is RUNNING or STOPPING (R92 to R97). -/
def State.transmitSlot (s : State) (p : Fin 4) (c : Nat) : State :=
  let n := txOf p
  let e := s.stream n
  if s.exhausted p then s.sendWord p (s.idleWord p)
  else match (s.port p).tx with
    | .taking =>
      match (s.port p).txFifo with
      | w :: rest => s.takeWord p c w rest
      | [] => s.beginUnderrun p c
    | .waiting =>
      if !s.enoughWords p || e.heldBack .underrun then (s.sendWord p (e.replayOf c)).occur n .underrun c
      else match (s.port p).txFifo with
        | w :: rest => if c = e.k then s.resumeTaking p c w rest else s.sendWord p (e.replayOf c)
        | [] => s.sendWord p (e.replayOf c)

/-- The next channel slot of the current frame begins at bit 16c (R89). -/
def State.enterSlot (s : State) (p : Fin 4) (c pos : Nat) : State :=
  s.setPort p { s.port p with slotsStarted := c + 1, framePos := some (max pos (16 * c)) }

/-- CHANNEL_SLOT_START (R92): the next channel slot of the current frame of a present port starts. Without a current frame,
or with every slot begun, no slot starts. -/
def execChannelSlotStart (p : Fin 4) (s : State) : Host.Outcome State Fault Refusal :=
  whenLive (fun s =>
    match (s.port p).active, (s.port p).framePos with
    | some d, some pos =>
      let c := (s.port p).slotsStarted
      if c < d.channels then
        let s1 := s.enterSlot p c pos
        match (s1.stream (txOf p)).state with
        | .running | .stopping => s1.transmitSlot p c
        | .absent | .idle | .armed | .pending => s1.sendWord p d.idle
      else s
    | _, _ => s) s

/-- STARVATION_EXPIRY (R77): the running starvation timer of a RUNNING transmit stream reaches its limit; the stream is
STOPPING with reason STARVED. With the timer stopped, or the stream not RUNNING, it does not happen. -/
def execStarvationExpiry (p : Fin 4) (s : State) : Host.Outcome State Fault Refusal :=
  whenLive (fun s =>
    let n := txOf p
    let e := s.stream n
    match e.state, e.starvation with
    | .running, some _ => s.setStream n { e with state := .stopping, stopping := some .starved, starvation := none }
    | _, _ => s) s

end Sys2Proof.Machine
end

