-- ==== Sys2Proof/Machine/Receive.lean ====
section
/-! DEFINITION. Frames: FRAME_BOUNDARY, LATE_FRAME, RX_CHANNEL_WORD_COMPLETE, with admission, frame checking, realigning and
the Signal Detectors (04_sample_ports.md sections 4.2, 4.4, 4.5, 05_signal_detector_and_gating.md). -/

namespace Sys2Proof.Machine

open Sys2Proof

/-! ### Frame checking (R104 to R106) -/

/-- One FRAME occurrence for each stream of the port that is not ABSENT, the transmit stream first (R104). -/
def State.frameFault (s : State) (p : Fin 4) (index : Nat) : State :=
  (s.occur (txOf p) .frame index).occur (rxOf p) .frame index

/-- Every reserved place becomes a SAMPLE holding the idle word (R105). -/
def padReserved (idle : Word) : List RxEntry → List RxEntry
  | [] => []
  | .reserved c :: f => .sample idle c :: padReserved idle f
  | .sample w c :: f => .sample w c :: padReserved idle f
  | .mark k t :: f => .mark k t :: padReserved idle f

/-- EARLY_SYNC_PADDING (R105). -/
def State.pad (s : State) (p : Fin 4) : State :=
  if (s.port p).admitted then
    s.setPort p { s.port p with rxFifo := padReserved (s.idleWord p) (s.port p).rxFifo, admitted := false }
  else s

/-- Words are discarded from the head for channels k to C − 1, as far as they reach (R106). -/
def State.realign (s : State) (p : Fin 4) : State :=
  let n := txOf p
  let e := s.stream n
  let C := s.channels p
  if e.state = .running ∧ (s.port p).tx = .taking ∧ e.k ≠ 0 then
    let lacking := C - e.k
    let got := min lacking (s.port p).txFifo.length
    let e1 := { e with
      taken := e.taken + got
      discarded := e.discarded + got
      k := if got = lacking then 0 else e.k + got }
    let s1 := (s.setStream n e1).setPort p { s.port p with txFifo := (s.port p).txFifo.drop got }
    if got = lacking then s1
    else (s1.setStream n { e1 with starvation := some 0 }).setPort p { s1.port p with tx := .waiting }
  else s

/-- SYNC_CLASSIFICATION (R104) of a sync at a bit position of the frame it ends, with the repairs of an early one. -/
def State.endFrame (s : State) (p : Fin 4) (d : PortDef) (position : Nat) : State :=
  if position < 16 * d.channels then ((s.frameFault p (position / 16)).pad p).realign p
  else if position < d.frameBits ∧ d.check = .exact then s.frameFault p d.channels
  else s

/-- Whether the frame under way is whole: no reserved place outstanding, and a transmit stream that is RUNNING and TAKING at
channel 0 again. A boundary that is not an early sync comes only then (log 10). -/
def State.frameWhole (s : State) (p : Fin 4) : Bool :=
  !(s.port p).admitted &&
    !((s.stream (txOf p)).state == .running && (s.port p).tx == .taking && (s.stream (txOf p)).k != 0)

/-- Where the samples first go from low to high, after a sample at the level `before` (R87). -/
def riseAt : Bool → List Bool → Option Nat
  | _, [] => none
  | before, x :: l => if !before && x then some 0 else (riseAt x l).map (· + 1)

/-- Where the samples first go from low to high, if that is the last of them. No sync is made before a low sample: the sample
ahead of these was high, or there was none. -/
def lastRise (samples : List Bool) : Option Nat :=
  match riseAt true samples with
  | some i => if i + 1 = samples.length then some i else none
  | none => none

/-- The bit of the current frame at whose start a SYNCED SLAVE port takes its next boundary, from FSYn in bits 0, 1, 2 and so on
(R87). PULSE: the bit after the one sampled high after a low one; the frame's own sync was the bit before bit 0. SPAN: that very
bit; the frame's own sync was bit 0. -/
def SyncShape.position : SyncShape → List Bool → Option Nat
  | .pulse, samples => (lastRise samples).map (· + 1)
  | .span, [] => none
  | .span, _ :: samples => (lastRise samples).map (· + 1)

/-- The bit of the current frame at which the boundary comes, if FSYn makes one; only a SYNCED SLAVE port's bit counts. A MASTER
port makes its own boundaries (R86), an UNSYNCED SLAVE takes the first sync after its APPLY (R88). -/
def PortEntry.boundaryPosition (q : PortEntry) (d : PortDef) (fsy : List Bool) : Option Nat :=
  match q.sync with
  | .synced => d.shape.position fsy
  | .unsynced => (lastRise fsy).map fun _ => 0
  | .none | .running => some 0

/-- Whether the boundary can come at this position (log 10): on a SYNCED SLAVE port the sync does not lie behind the frame
position, nor inside a channel slot whose word is complete, and one beyond bit L comes after LATE_FRAME under EXACT. -/
def State.boundaryCanCome (s : State) (p : Fin 4) (d : PortDef) (position : Nat) : Bool :=
  match (s.port p).sync with
  | .synced =>
    let pos := (s.port p).framePos.getD 0
    if position < pos ∨ position < 16 * (s.port p).wordsDone then false
    else if position < 16 * d.channels then true
    else if d.frameBits < position ∧ d.check = .exact ∧ pos ≤ d.frameBits then false
    else s.frameWhole p
  | .none | .running | .unsynced => s.frameWhole p

/-! ### The frame boundary (R90) -/

/-- The port's part: frames seen, the frame position, and SYNCED at a SLAVE's first sync (R88, R90). -/
def State.beginFrame (s : State) (p : Fin 4) : State :=
  let q := s.port p
  s.setPort p { q with
    framesSeen := q.framesSeen + 1
    framePos := some 0
    slotsStarted := 0
    wordsDone := 0
    sync := match q.sync with
      | .unsynced => .synced
      | y => y }

/-- PENDING to RUNNING, with STREAM_STARTED (R55). -/
def State.startRunning (s : State) (n : Fin 8) : State :=
  let e := s.stream n
  let v := s.ring (.stream n)
  let frames := match e.active with
    | some d => d.runFrames
    | none => 0
  (s.setStream n { e with state := .running }).raiseStream n Enables.lifecycle .streamStarted (word frames)
    (word (if isTx n then v.consumer else v.producer)) 0

/-- A boundary at the transmit stream: PENDING becomes RUNNING, STOPPING ends, an exhausted run completes (R55, R57, R64). -/
def State.boundaryTx (s : State) (p : Fin 4) : State :=
  let n := txOf p
  match (s.stream n).state with
  | .pending => s.startRunning n
  | .stopping => (s.throwOutTx p).endRun n (((s.stream n).stopping.getD .stopped).ends)
  | .running => if s.exhausted p then s.endRun n .complete else s
  | .absent | .idle | .armed => s

/-- A boundary at the receive stream: PENDING becomes RUNNING (R55). -/
def State.boundaryRx (s : State) (p : Fin 4) : State :=
  let n := rxOf p
  match (s.stream n).state with
  | .pending => s.startRunning n
  | .absent | .idle | .armed | .running | .stopping => s

/-- C reserved places, for channels c on. -/
def reservedFrom : Nat → Nat → List RxEntry
  | _, 0 => []
  | c, n + 1 => .reserved c :: reservedFrom (c + 1) n

/-- The frame is admitted (R99): C places are reserved, and the words count against the run limit. -/
def State.admitFrame (s : State) (p : Fin 4) : State :=
  let n := rxOf p
  let C := s.channels p
  let e := s.stream n
  ((s.setPort p { s.port p with rxFifo := (s.port p).rxFifo ++ reservedFrom 0 C, admitted := true }).setStream n
    { e with admitted := e.admitted + C }).checkLimit n

/-- FRAME_ADMISSION (R99, R101): admitted, not admitted, or dropped with an OVERRUN. -/
def State.admission (s : State) (p : Fin 4) : State :=
  let n := rxOf p
  let e := s.stream n
  if e.state = .running then
    if e.gateOpen = false ∨ e.limitReached = true then s
    else if fifoPlaces < placeCount (s.port p).rxFifo + s.channels p then s.occur n .overrun 0
    else if e.heldBack .overrun then s.occur n .overrun 0
    else s.admitFrame p
  else s

/-! ### The Signal Detector (R113 to R120) -/

/-- A magnitude: |x|, and 32767 for −32768 (R113). -/
def magnitude (w : Word) : Nat := min 32767 w.toInt.natAbs

/-- The detector takes a channel word (R113). -/
def DetectorEntry.hear (e : DetectorEntry) (c : Nat) (w : Word) : DetectorEntry :=
  match e.active with
  | none => e
  | some d => if d.mask.getLsbD c then { e with peak := max e.peak (magnitude w) } else e

/-- The state and state count after a block with this peak (R115). -/
def DetectorDef.next (d : DetectorDef) (st : DetectorState) (count peak : Nat) : DetectorState × Nat :=
  let signal := d.onThreshold ≤ peak
  let silence := peak < d.offThreshold
  match st with
  | .quiet => if signal then (if 1 < d.onTime then (.onset, 1) else (.present, 0)) else (.quiet, 0)
  | .onset => if signal then (if count + 1 < d.onTime then (.onset, count + 1) else (.present, 0)) else (.quiet, 0)
  | .present => if silence then (if 1 < d.offTime then (.fading, 1) else (.quiet, 0)) else (.present, 0)
  | .fading => if silence then (if count + 1 < d.offTime then (.fading, count + 1) else (.quiet, 0)) else (.present, 0)

/-- A signal is confirmed: PRESENT is entered from ONSET or QUIET. -/
def confirmsSignal (old new : DetectorState) : Bool := (old == .quiet || old == .onset) && new == .present

/-- A signal has ended: QUIET is entered from PRESENT or FADING. -/
def endsSignal (old new : DetectorState) : Bool := (old == .present || old == .fading) && new == .quiet

/-- SIGNAL_EVENT (R116). -/
def State.raiseSignal (s : State) (p : Fin 4) (old new : DetectorState) (peak : Nat) : State :=
  let n := rxOf p
  if old == .quiet && new == .onset then s.raiseStream n Enables.onset .signalOnset (word peak) 0 0
  else if confirmsSignal old new then s.raiseStream n Enables.signal .signalPresent (word peak) 0 0
  else if endsSignal old new then s.raiseStream n Enables.signal .signalEnded (word peak) 0 0
  else s

/-- START_MARK_PLACED (R119, R102): with room for it the mark is placed and the gate opens. -/
def State.askStart (s : State) (p : Fin 4) : State :=
  let n := rxOf p
  let e := s.stream n
  if e.gateOpen = false ∧ e.limitReached = false ∧ markCount (s.port p).rxFifo ≤ startMarkRoom then
    let s1 := s.placeMark p .segStart
    s1.setStream n { s1.stream n with gateOpen := true }
  else s

/-- The gate at a block end, with gating on (R119, R120). -/
def State.moveGate (s : State) (p : Fin 4) (old new : DetectorState) : State :=
  if s.gating p then
    if confirmsSignal old new then s.askStart p
    else if endsSignal old new then s.closeGate p
    else s
  else s

/-- DETECTOR_BLOCK_END (R114): the block peak is stored, the state changes, the event is raised, the gate moves, and the next
block begins. -/
def State.evaluateBlock (s : State) (p : Fin 4) (d : DetectorDef) : State :=
  let e := s.detector p
  let r := d.next e.state e.count e.peak
  let s1 := s.setDetector p { e with state := r.1, count := r.2, last := e.peak, peak := 0, frames := 0 }
  (s1.raiseSignal p e.state r.1 e.peak).moveGate p e.state r.1

/-- A frame end handed to the detector (R114). -/
def State.frameEnd (s : State) (p : Fin 4) : State :=
  let e := s.detector p
  match e.active with
  | none => s
  | some d =>
    if e.frames + 1 = d.blockFrames then s.evaluateBlock p d
    else s.setDetector p { e with frames := e.frames + 1 }

/-- The work of a boundary in the order of R90 and R114: the port, the Stream Controller, admission, and the detector of a
stream that was RUNNING in the frame that ended; then the marks that have reached the head (R69). -/
def State.takeBoundary (s : State) (p : Fin 4) : State :=
  let wasRunning := (s.stream (rxOf p)).state == .running
  let s1 := (((s.beginFrame p).boundaryTx p).boundaryRx p).admission p
  (if wasRunning then s1.frameEnd p else s1).processMarks p

/-- The boundary at a bit position. On a SYNCED SLAVE port the sync is classified first (R104). -/
def State.boundaryAt (s : State) (p : Fin 4) (d : PortDef) (position : Nat) : State :=
  if s.boundaryCanCome p d position then
    match (s.port p).sync with
    | .synced => (s.endFrame p d position).takeBoundary p
    | .none | .running | .unsynced => s.takeBoundary p
  else s

/-- FRAME_BOUNDARY (R87, R88, R90) of a present port; without a sync on FSYn a SLAVE port takes none. -/
def execFrameBoundary (p : Fin 4) (fsy : List Bool) (s : State) : Host.Outcome State Fault Refusal :=
  whenLive (fun s =>
    match (s.port p).active with
    | none => s
    | some d =>
      match (s.port p).boundaryPosition d fsy with
      | none => s
      | some position => s.boundaryAt p d position) s

/-- LATE_FRAME (R104, R107): bit L of a SYNCED SLAVE port passes without a sync, once in a frame; under EXACT FRAME is reported
with index C. -/
def execLateFrame (p : Fin 4) (s : State) : Host.Outcome State Fault Refusal :=
  whenLive (fun s =>
    match (s.port p).active, (s.port p).framePos with
    | some d, some pos =>
      if (s.port p).sync = .synced ∧ pos ≤ d.frameBits ∧ s.frameWhole p = true then
        let s1 := s.setPort p { s.port p with framePos := some (d.frameBits + 1) }
        if d.check = .exact then s1.frameFault p d.channels else s1
      else s
    | _, _ => s) s

/-- The oldest reserved place becomes a SAMPLE (R100). -/
def fillReserved (w : Word) : List RxEntry → List RxEntry
  | [] => []
  | .reserved c :: f => .sample w c :: f
  | .sample v c :: f => .sample v c :: fillReserved w f
  | .mark k t :: f => .mark k t :: fillReserved w f

/-- The word sixteen bits of SDIn make: most significant bit first (R89). -/
def sampledWord (sdi : Vector Bool 16) : Word := (BitVec.ofBoolListBE sdi.toList).cast (by simp)

/-- RX_CHANNEL_WORD_COMPLETE (R89, R100, R103): the next channel word of the current frame, complete at the rising edge in the
middle of its slot's last bit. In an admitted frame it fills its reserved place; while the stream is RUNNING the detector takes
it. -/
def execRxChannelWordComplete (p : Fin 4) (sdi : Vector Bool 16) (s : State) : Host.Outcome State Fault Refusal :=
  whenLive (fun s =>
    match (s.port p).active, (s.port p).framePos with
    | some d, some pos =>
      let w := sampledWord sdi
      let q := s.port p
      let c := q.wordsDone
      if c < d.channels then
        let s1 := s.setPort p { q with
          wordsDone := c + 1
          framePos := some (max pos (16 * c + 15))
          rxFifo := if q.admitted then fillReserved w q.rxFifo else q.rxFifo
          admitted := q.admitted && decide (c + 1 < d.channels) }
        if (s.stream (rxOf p)).state = .running then s1.setDetector p ((s1.detector p).hear c w) else s1
      else s
    | _, _ => s) s

end Sys2Proof.Machine
end

