-- ==== Sys2Proof/Machine/Records.lean ====
section
/-! DEFINITION. The steps of the record bursts and of INT#: COMMAND_RECORD_READ, COMMAND_RESULT_WRITTEN,
EVENT_RECORD_WRITTEN, INT_PULSE_END, IDENTITY_FIRST_BURST_COMPLETE, IDENTITY_BURST_COMPLETE (07_commands.md section 7.1,
08_events_time_tag_and_the_interrupt_line.md, 09_start_up_and_straps.md). -/

namespace Sys2Proof.Machine

open Sys2Proof

/-- The words of a burst reach memory and the port is free (R17, log 9). -/
def State.landBurst (s : State) (writes : List (Addr × Word)) : State :=
  { s with mem := Memory.storeAll s.mem writes }.setUse .free

/-- COMMAND_RECORD_READ (R137, R138): words 0 to 7 are the current record and the unit is EXECUTING. -/
def execCommandRecordRead (s : State) : Host.Outcome State Fault Refusal :=
  whenLive (fun s =>
    match s.arb.use, s.cmd.state with
    | .commandRead, .reading slot =>
      let base := s.recordBase .command slot
      let r := readRecord slot fun i => Memory.word s.mem (address (base + i))
      { s with cmd := { s.cmd with state := .executing r } }.setUse .free
    | _, _ => s) s

/-- After the result of RESET PART the reset cause is RESET PART and the identity block is asked for (R188). -/
def State.afterResult (s : State) (r : CommandRecord) : State :=
  if r.code = 0x1F then { s with start := { s.start with cause := .resetPart } }.requestIdentity else s

/-- COMMAND_RESULT_WRITTEN (R38, R140): the result is in memory, the record is consumed, a posting held on its slot is
released, and the next record is taken. -/
def execCommandResultWritten (s : State) : Host.Outcome State Fault Refusal :=
  whenLive (fun s =>
    match s.arb.use, s.cmd.state with
    | .commandResult writes, .writing r _ =>
      let s1 := (s.landBurst writes).consumeRing .command
      let s2 := (s1.releaseAt .command r.slot).afterResult r
      { s2 with cmd := { s2.cmd with state := .waiting } }.takeCommand
    | _, _ => s) s

/-- A pulse begins, or begins again, in PULSE mode (R173). -/
def EventUnit.recordWritten (u : EventUnit) : EventUnit :=
  match u.line with
  | .level => u
  | .pulse => { u with pulse := some 0 }

/-- EVENT_RECORD_WRITTEN (R40, R172, R173): the record is filled at the completion of word 7. -/
def execEventRecordWritten (s : State) : Host.Outcome State Fault Refusal :=
  whenLive (fun s =>
    match s.arb.use with
    | .eventRecord writes =>
      let s1 := (s.landBurst writes).fillRing .event
      { s1 with events := s1.events.recordWritten }
    | _ => s) s

/-- INT_PULSE_END (R173): a pulse under way ends. -/
def execIntPulseEnd (s : State) : Host.Outcome State Fault Refusal :=
  whenLive (fun s => { s with events := { s.events with pulse := none } }) s

/-- IDENTITY_FIRST_BURST_COMPLETE (R171, R184): words 0 to 7 are in memory; the second burst is requested. -/
def execIdentityFirstBurstComplete (s : State) : Host.Outcome State Fault Refusal :=
  whenLive (fun s =>
    match s.arb.use with
    | .identityFirst writes => s.landBurst writes
    | _ => s) s

/-- The identity write is done; one that is owed is now due (R188). -/
def IdentityWrite.finished (i : IdentityWrite) : IdentityWrite :=
  { phase := if i.owed then .firstDue else .idle, owed := false }

/-- STARTED (R185, R188). -/
def State.raiseStarted (s : State) : State :=
  s.raisePart .started partSource (word s.start.cause.number) (word s.start.base.toNat) 0

/-- STARTING ends in OPERATING, and a record posted meanwhile is taken (R137, R185). -/
def State.enterOperating (s : State) : State :=
  match s.start.part with
  | .starting => { s with start := { s.start with part := .operating } }.takeCommand
  | _ => s

/-- IDENTITY_BURST_COMPLETE (R185, R188): words 8 to 15 are in memory, STARTED is raised, STARTING ends. -/
def execIdentityBurstComplete (s : State) : Host.Outcome State Fault Refusal :=
  whenLive (fun s =>
    match s.arb.use with
    | .identitySecond writes =>
      let s1 := (s.landBurst writes).raiseStarted
      { s1 with start := { s1.start with identity := s1.start.identity.finished } }.enterOperating
    | _ => s) s

end Sys2Proof.Machine
end

