-- ==== Sys2Proof/Machine/Dispatch.lean ====
section
/-! DEFINITION. Dispatch: one arm per command, each a direct call of its meaning. -/

namespace Sys2Proof.Machine

open Sys2Proof

/-- The command's effect on everything but the queue. -/
def exec (i : Instr) (s : State) : Host.Outcome State Fault Refusal :=
  match i with
  | .accessArrival c => Sys2Proof.Machine.execAccessArrival c s
  | .arbiterGrant => Sys2Proof.Machine.execArbiterGrant s
  | .passageComplete => Sys2Proof.Machine.execPassageComplete s
  | .holdExpiry => Sys2Proof.Machine.execHoldExpiry s
  | .fetchWordComplete => Sys2Proof.Machine.execFetchWordComplete s
  | .depositWordComplete => Sys2Proof.Machine.execDepositWordComplete s
  | .rxStoppingDrained p => Sys2Proof.Machine.execRxStoppingDrained p s
  | .rxRunComplete p => Sys2Proof.Machine.execRxRunComplete p s
  | .commandRecordRead => Sys2Proof.Machine.execCommandRecordRead s
  | .commandResultWritten => Sys2Proof.Machine.execCommandResultWritten s
  | .eventRecordWritten => Sys2Proof.Machine.execEventRecordWritten s
  | .intPulseEnd => Sys2Proof.Machine.execIntPulseEnd s
  | .identityBurstComplete => Sys2Proof.Machine.execIdentityBurstComplete s
  | .frameBoundary p fsy => Sys2Proof.Machine.execFrameBoundary p fsy s
  | .lateFrame p => Sys2Proof.Machine.execLateFrame p s
  | .channelSlotStart p => Sys2Proof.Machine.execChannelSlotStart p s
  | .rxChannelWordComplete p sdi => Sys2Proof.Machine.execRxChannelWordComplete p sdi s
  | .starvationExpiry p => Sys2Proof.Machine.execStarvationExpiry p s
  | .trigEdge => Sys2Proof.Machine.execTrigEdge s
  | .tagclkEdge => Sys2Proof.Machine.execTagclkEdge s
  | .rstFall => Sys2Proof.Machine.execRstFall s
  | .rstRise base bpar => Sys2Proof.Machine.execRstRise base bpar s
  | .nop => Sys2Proof.Machine.execNop s
  | .definePort => Sys2Proof.Machine.execDefinePort s
  | .defineStream => Sys2Proof.Machine.execDefineStream s
  | .defineDetector => Sys2Proof.Machine.execDefineDetector s
  | .defineWatch => Sys2Proof.Machine.execDefineWatch s
  | .apply => Sys2Proof.Machine.execApply s
  | .start => Sys2Proof.Machine.execStart s
  | .stop => Sys2Proof.Machine.execStop s
  | .abort => Sys2Proof.Machine.execAbort s
  | .extend => Sys2Proof.Machine.execExtend s
  | .setLevel => Sys2Proof.Machine.execSetLevel s
  | .clearFault => Sys2Proof.Machine.execClearFault s
  | .queryStream => Sys2Proof.Machine.execQueryStream s
  | .queryFaults => Sys2Proof.Machine.execQueryFaults s
  | .queryPort => Sys2Proof.Machine.execQueryPort s
  | .setTime => Sys2Proof.Machine.execSetTime s
  | .setLine => Sys2Proof.Machine.execSetLine s
  | .resetPart => Sys2Proof.Machine.execResetPart s
  | .unknownCommand => Sys2Proof.Machine.execUnknownCommand s
  | .internalTimeTagIncrease => Sys2Proof.Machine.execInternalTimeTagIncrease s
  | .identityFirstBurstComplete => Sys2Proof.Machine.execIdentityFirstBurstComplete s
  | .pcsOrStrobesHigh => Sys2Proof.Machine.execPcsOrStrobesHigh s

end Sys2Proof.Machine
end

