-- ==== Sys2Proof/Machine/Step.lean ====
section
/-! DEFINITION. One step: the command at the front of the queue, or, with the queue empty, a microsecond of the part's own
timebase (log 2). -/

namespace Sys2Proof.Machine

open Sys2Proof

/-- Takes the front command and runs it with the queue's rest. On an empty queue nothing is commanded: the part's own
timebase moves on by one microsecond and only the counters between two rows count (log 2). -/
def step (s : State) : Host.Outcome State Fault Refusal :=
  match s.pending with
  | [] => .next s.tick
  | c :: cs => exec c { s with pending := cs }

/-- The command a word spells, put at the front of the queue; the state is unchanged where it spells none (log 20). -/
def State.withFetchWord (s : State) (nbits w : Nat) : State :=
  match decodeTableWord nbits w with
  | some c => { s with pending := c :: s.pending }
  | none => s

end Sys2Proof.Machine
end

