-- ==== Sys2Proof/Machine/Pins.lean ====
section
/-! DEFINITION. The output pins, derived from the state (09_start_up_and_straps.md section 9.4). `true` is high. -/

namespace Sys2Proof.Machine

open Sys2Proof

/-- PRDY: low from an arrival to the end of the access, high otherwise (R1, R19). -/
def State.prdy (s : State) : Bool :=
  match s.path.phase with
  | .held _ | .forwarded _ _ => false
  | .ready | .ended | .transparent => true

/-- INT#: in LEVEL mode low while the event ring holds a record, in PULSE mode low during a pulse; high in RESET and SAFE
(R172, R173, R175). -/
def State.int (s : State) : Bool :=
  if s.live then
    match s.events.line with
    | .level => decide ((s.ring .event).fill = 0)
    | .pulse => s.events.pulse.isNone
  else true

/-- PFLT#: low in SAFE (R180, R182). -/
def State.pflt (s : State) : Bool := s.start.part != .safe

/-! ### The memory port for the processor -/

/-- The lines of the memory port in a cycle for the processor. -/
structure MemoryPins where
  ma : Addr
  mcs : Bool
  moe : Bool
  mwe : Bool
  mub : Bool
  mlb : Bool
  /-- What the part drives on MD15..MD0; on a read the RAM drives them. -/
  md : Option Word
deriving DecidableEq, Repr

/-- The memory port in the cycle of a forwarded access (R2, R3). -/
def Access.memoryPins (a : Access) : MemoryPins :=
  { ma := a.addr, mcs := false, moe := a.kind != .read, mwe := a.kind == .read, mub := !a.high, mlb := !a.low
    md := match a.kind with
      | .read => none
      | .write d => some d }

/-- The memory port following the processor port (R19): MOE# and MWE# are POE# and PWE#, and the data lines pass the word in the
direction of the access. -/
def BusCycle.memoryPins (c : BusCycle) : MemoryPins :=
  { ma := c.addr, mcs := false, moe := !c.poeLow, mwe := !c.pweLow, mub := !c.pubLow, mlb := !c.plbLow
    md := if c.pweLow then some c.data else none }

/-- Whether the path is transparent: in RESET and SAFE, and to the end of an access that arrived there (R19, R21). -/
def State.transparent (s : State) : Bool := !s.live || s.path.phase == .transparent

/-- The memory port for the processor: on the transparent path what the processor port shows, otherwise the access in its
PASSAGE cycle (R3, R19). With `none` the processor has no cycle there: PCS#, or both strobes, are high, or the access waits. -/
def State.memoryPins (s : State) : Option MemoryPins :=
  if s.transparent then s.path.bus.map BusCycle.memoryPins
  else match s.path.phase, s.arb.use with
    | .forwarded a _, .passage => some a.memoryPins
    | _, _ => none

/-! ### The sample ports -/

/-- Whether a port drives SCKn and FSYn: a present MASTER (R86, R109). -/
def State.drivesClock (s : State) (p : Fin 4) : Bool :=
  match (s.port p).active with
  | some d => d.role == .master
  | none => false

/-- The word SDOn carries in the slot begun last, `none` with no slot begun and once the frame position has left the channel slots
(R89, R92, log 11). -/
def State.sdo (s : State) (p : Fin 4) : Option Word :=
  match (s.port p).active, (s.port p).framePos with
  | some d, some pos =>
    if 0 < (s.port p).slotsStarted ∧ pos < 16 * d.channels then some (s.port p).slotWord else none
  | _, _ => none

/-- Whether the boundary is known in the middle of bit 0 only: a SLAVE port with sync shape SPAN (R89). -/
def PortDef.knowsLate (d : PortDef) : Bool := d.role == .slave && d.shape == .span

/-- The level of SDOn in a half bit, counted from the start of the slot begun last; low with none (R89). Half bits 0 to 31 are the
slot's: most significant bit first, low in the first half of bit 0 of channel 0 where the boundary is known late. From 32 on is
the gap: low. -/
def State.sdoHalf (s : State) (p : Fin 4) (half : Nat) : Bool :=
  match (s.port p).active, s.sdo p with
  | some d, some w => w.getMsbD (half / 2) && !(d.knowsLate && (s.port p).slotsStarted == 1 && half == 0)
  | _, _ => false

/-- FSYn in a bit of a MASTER's frame (R87): PULSE high in the last bit, SPAN high in the 16 bits of channel 0. -/
def PortDef.fsyIn (d : PortDef) (bit : Nat) : Bool :=
  match d.shape with
  | .pulse => bit + 1 == d.frameBits
  | .span => decide (bit < 16)

/-- FSYn in a bit of the current frame, `none` where the port does not drive it. Before a MASTER's first frame comes the extra bit
of PULSE, high; with SPAN the first bit is bit 0 of the frame, high (R86, R87). -/
def State.fsy (s : State) (p : Fin 4) (bit : Nat) : Option Bool :=
  match (s.port p).active, s.drivesClock p with
  | some d, true => some (match (s.port p).framePos with
    | none => true
    | some _ => d.fsyIn bit)
  | _, _ => none

/-- SCKn in a CLK cycle (0 to 2D − 1) of a bit: a falling edge begins the bit, the rising edge is in its middle (R86). -/
def State.sck (s : State) (p : Fin 4) (clk : Nat) : Option Bool :=
  match (s.port p).active, s.drivesClock p with
  | some d, true => some (decide (d.divider ≤ clk))
  | _, _ => none

end Sys2Proof.Machine
end

