-- ==== Sys2Proof/Safety.lean ====
section
/-! DEFINITION. What counts as a safe run: a run of steps that stops at no fault and no refusal. -/

namespace Sys2Proof

open Sys2Proof.Machine

/-- A step that answers a next state. -/
def Goes (s : State) : Prop := ∃ t, step s = .next t

/-- Every state of the next `k` steps goes on. -/
def SafeRun : Nat → State → Prop
  | 0, _ => True
  | k + 1, s => ∃ t, step s = .next t ∧ SafeRun k t

end Sys2Proof
end

