-- ==== Sys2Proof/Certificates/Slice0/Obligations.lean ====
section
/-! DEFINITION. The statements for the provers, chapter by chapter. Each `def Obligations.<Name> : Prop` is listed in
OBLIGATIONS.json. -/

/-! ### Words the statements use -/

namespace Sys2Proof.Claims

open Sys2Proof Sys2Proof.Machine

/-- The codes and their commands (R138). -/
def commandTable : List (Byte × Instr) :=
  [(0x01, .nop), (0x02, .definePort), (0x03, .defineStream), (0x04, .defineDetector), (0x05, .defineWatch),
    (0x06, .apply), (0x08, .start), (0x09, .stop), (0x0A, .abort), (0x0B, .extend), (0x0C, .setLevel),
    (0x0D, .clearFault), (0x10, .queryStream), (0x11, .queryFaults), (0x12, .queryPort), (0x18, .setTime),
    (0x19, .setLine), (0x1F, .resetPart)]

/-- The rows of the commands of the command ring, UNKNOWN_COMMAND among them. -/
def commandRows : List Instr := .unknownCommand :: commandTable.map Prod.snd

/-- The command a code selects; any other code is UNKNOWN (R138, R164). -/
def commandFor (code : Byte) : Instr := (commandTable.lookup code).getD .unknownCommand

/-- The part is on and the Command Unit is EXECUTING a record with this code. -/
abbrev Executing (s : State) (r : CommandRecord) (code : Byte) : Prop :=
  s.live = true ∧ s.cmd.state = .executing r ∧ r.code = code

/-- `t`, which holds a command's effects, with the Command Unit WRITING this result (R139, R142). -/
def answered (t : State) (r : CommandRecord) (code : ResultCode) (detail : Nat) (response : Option (Vector Word 6)) : State :=
  { t with cmd := { t.cmd with state := .writing r ⟨code, BitVec.ofNat 16 detail, response⟩ } }

/-- The access of an arrival (R1, R2). -/
def accessOf (c : BusCycle) : Access :=
  { kind := if c.pweLow then .write c.data else .read, addr := c.addr, high := c.pubLow, low := c.plbLow }

/-- The Path Unit is ready, the part is on, and a strobe is low. -/
abbrev Arrives (c : BusCycle) (s : State) : Prop :=
  s.live = true ∧ s.path.phase = .ready ∧ (c.poeLow || c.pweLow) = true

/-- The processor port shows this arrival; nothing else changes (R1). -/
def onBus (c : BusCycle) (s : State) : State := { s with path := { s.path with bus := some c } }

/-- The access is forwarded; nothing else changes. -/
def forwardedWith (s : State) (a : Access) (e : Effect) : State :=
  { s with path := { s.path with phase := .forwarded a e } }

/-- The access is held from now on; nothing else changes (R11). -/
def heldWith (s : State) (a : Access) (r : RingId) (slot word limit : Nat) : State :=
  let h : HeldAccess := { access := a, ring := r, slot := slot, word := word, limit := limit, time := 0, releasable := true }
  { s with path := { s.path with phase := .held h } }

/-- PRDY has risen with this word on PD; nothing else of `s` changes. With the strobes high already, the Path Unit is ready at
once (log 22). -/
def endedWith (s : State) (pd : Word) : State :=
  { s with path := { s.path with phase := if s.path.bus = none then .ready else .ended, pd := pd } }

/-- Slot i of the ring is filled: it lies among the `fill` slots from the consumer on (R23). -/
abbrev Filled (count : Nat) (v : Ring) (i : Nat) : Prop := ∃ j, j < v.fill ∧ i = (v.consumer + j) % count

/-- Every block but Start-up Control, the Path Unit, memory, the free index and the queue is as after reset. -/
def BlocksAsReset (t : State) : Prop :=
  t.arb = State.reset.arb ∧ t.rings = State.reset.rings ∧ t.streams = State.reset.streams ∧
  t.engines = State.reset.engines ∧ t.ports = State.reset.ports ∧ t.detectors = State.reset.detectors ∧
  t.watches = State.reset.watches ∧ t.cmd = State.reset.cmd ∧ t.events = State.reset.events ∧ t.time = State.reset.time

/-- The ones among the five straps (R181). -/
def ones (base : BitVec 4) (bpar : Bool) : Nat :=
  ([base.getLsbD 0, base.getLsbD 1, base.getLsbD 2, base.getLsbD 3, bpar].filter id).length

/-- Whose burst it is. -/
def ownedBy : Requester → PortUse → Bool
  | .deposit, .deposit _ => true
  | .fetch, .fetch _ => true
  | .record, .eventRecord _ => true
  | .record, .identityFirst _ => true
  | .record, .identitySecond _ => true
  | .command, .commandRead => true
  | .command, .commandResult _ => true
  | _, _ => false

/-- The burst B of a stream's definition with the port's C (R50). -/
def burstWords (d : StreamDef) (C : Nat) : Nat := if d.burstCode = 0 then C else d.burstCode

/-- The stream event an enabled kind raises, or no change. -/
def raisedIf (enabled : Bool) (u : EventUnit) (e : Event) : EventUnit := if enabled then u.raise e else u

/-- A boundary that comes at port p and needs no report and no repair (R104): of a MASTER port, a SLAVE port's first sync, a
sync on time or after a late frame, or a short one under EARLY. -/
abbrev CleanBoundary (s : State) (p : Fin 4) (d : PortDef) (fsy : List Bool) (position : Nat) : Prop :=
  s.live = true ∧ (s.port p).active = some d ∧ (s.port p).boundaryPosition d fsy = some position ∧
  s.boundaryCanCome p d position = true ∧
  ((s.port p).sync = .synced → 16 * d.channels ≤ position ∧ (d.check = .exact → d.frameBits ≤ position))

/-- The first sync in these samples is made by sample i + 1, the last of them: high after a low one (R87). -/
def SyncsAt (fsy : List Bool) (i : Nat) : Prop :=
  fsy.length = i + 2 ∧ fsy[i]? = some false ∧ fsy[i + 1]? = some true ∧
  ∀ j, j < i → fsy[j]? = some false → fsy[j + 1]? = some false

/-- The frame under way is whole: no reserved place is outstanding, and a transmit stream that is RUNNING and TAKING is at channel
0 again (log 10). -/
def FrameWhole (s : State) (p : Fin 4) : Prop :=
  (s.port p).admitted = false ∧
  ¬ ((s.stream (txOf p)).state = .running ∧ (s.port p).tx = .taking ∧ (s.stream (txOf p)).k ≠ 0)

/-- The frames of a run that have moved, as STREAM_ENDED gives them (R78). -/
def wholeFrames (words C : Nat) : Word := BitVec.ofNat 16 (words / C)

/-- A burst of the Deposit Engine for the receive stream of port p is under way. -/
def depositUnderWay (s : State) (p : Fin 4) : Bool :=
  match s.arb.use with
  | .deposit b => b.port == p
  | _ => false

/-- A burst of the Fetch Engine for the transmit stream of port p is under way. -/
def fetchUnderWay (s : State) (p : Fin 4) : Bool :=
  match s.arb.use with
  | .fetch b => b.port == p
  | _ => false

/-- What the processing of marks leaves of an RX FIFO, of the segment record and of the event queue. -/
structure MarkWork where
  fifo : List RxEntry
  segOpen : Bool
  segWords : Nat
  events : EventUnit

/-- The marks at the head of the RX FIFO of stream n leave it, one after the other (R69). START opens the segment record with
count 0 and raises SEGMENT_START, END closes it and raises SEGMENT_END with the count, each with the ring's producer and lap and
the mark's tag (R123, R124), subject to the stream's SEGMENT enable. -/
def marksProcessed (enabled : Bool) (n : Fin 8) (v : Ring) : List RxEntry → Bool → Nat → EventUnit → MarkWork
  | .mark .segStart tag :: f, _, _, u => marksProcessed enabled n v f true 0 (raisedIf enabled u
      ⟨.segmentStart, BitVec.ofNat 8 n.val, BitVec.ofNat 16 v.producer, v.lap.getD 0, 0, tag⟩)
  | .mark .segEnd tag :: f, _, words, u => marksProcessed enabled n v f false words (raisedIf enabled u
      ⟨.segmentEnd, BitVec.ofNat 8 n.val, BitVec.ofNat 16 v.producer, v.lap.getD 0, BitVec.ofNat 16 words, tag⟩)
  | f, segOpen, words, u => ⟨f, segOpen, words, u⟩

/-- The receive side of a port: the stream's entry, the RX FIFO, current frame admitted, and the event queue. -/
structure RxSide where
  entry : StreamEntry
  fifo : List RxEntry
  admitted : Bool
  events : EventUnit

/-- `t` holds this receive side after the marks at the head of the FIFO, which wait while a deposit burst of the stream is under
way (R69). -/
def LeftWithMarksDone (s t : State) (p : Fin 4) (ds : StreamDef) (x : RxSide) : Prop :=
  let n := rxOf p
  let m : MarkWork := if depositUnderWay s p then ⟨x.fifo, x.entry.segOpen, x.entry.segWords, x.events⟩
    else marksProcessed ds.enables.segment n (s.ring (.stream n)) x.fifo x.entry.segOpen x.entry.segWords x.events
  t.stream n = { x.entry with segOpen := m.segOpen, segWords := m.segWords } ∧ (t.port p).rxFifo = m.fifo ∧
    (t.port p).admitted = x.admitted ∧ t.events = m.events

/-- A frame of C channels is offered to RUNNING receive stream n (R99): not admitted with the gate closed or the limit reached;
dropped with an OVERRUN for want of room or under CLEARED (R73, R101); else admitted with C places. At the run limit an
extension is applied with RUN_EXTENDED (R62), or the limit is reached and, with gating on, the gate closes with an END mark
(R60, R121). -/
def frameOffered (ds : StreamDef) (C : Nat) (n : Fin 8) (gating : Bool) (tag : Tag) (x : RxSide) : RxSide :=
  let e := x.entry
  let total := e.admitted + C
  let count := satInc (e.faultCount .overrun)
  let taken : StreamEntry := { e with admitted := total }
  let fifo := x.fifo ++ (List.range C).map .reserved
  if e.gateOpen = false ∨ e.limitReached = true then x
  else if 32 < (x.fifo.filter RxEntry.isPlace).length + C ∨ (ds.resume = .cleared ∧ e.flag .overrun = true) then
    { x with
      entry := { e with flags := e.flags.set 1 true, counts := e.counts.set 1 count }
      events := raisedIf (ds.enables.fault && !e.flag .overrun) x.events
        ⟨.fault, BitVec.ofNat 8 n.val, 2, 0, BitVec.ofNat 16 count, tag⟩ }
  else if e.limit ≠ some total then ⟨taken, fifo, true, x.events⟩
  else match e.extension with
    | some f => ⟨{ taken with extension := none, limit := some (total + f * C) }, fifo, true,
        raisedIf ds.enables.lifecycle x.events ⟨.runExtended, BitVec.ofNat 8 n.val, BitVec.ofNat 16 f,
          BitVec.ofNat 16 (min 65535 ((total + f * C - e.deposited) / C)), 0, tag⟩⟩
    | none =>
      if gating then ⟨{ taken with limitReached := true, gateOpen := false }, fifo ++ [.mark .segEnd tag], true, x.events⟩
      else ⟨{ taken with limitReached := true }, fifo, true, x.events⟩

/-- The event of a block end with this peak, if the detector of stream n goes from one state to another that raises one (R116). -/
def signalRaised (en : Enables) (n : Fin 8) (before now : DetectorState) (peak : Nat) (tag : Tag) (u : EventUnit) : EventUnit :=
  let signal : EventKind → Event := fun kind => ⟨kind, BitVec.ofNat 8 n.val, BitVec.ofNat 16 peak, 0, 0, tag⟩
  match before, now with
  | .quiet, .onset => raisedIf en.onset u (signal .signalOnset)
  | .quiet, .present | .onset, .present => raisedIf en.signal u (signal .signalPresent)
  | .present, .quiet | .fading, .quiet => raisedIf en.signal u (signal .signalEnded)
  | _, _ => u

/-- The events with that of the transmit stream of port p at a boundary: STREAM_STARTED of a PENDING one, STREAM_ENDED of a
STOPPING one with its reason, and of an exhausted run with reason COMPLETE (R55, R57, R64, R78). -/
def txBoundaryEvents (s : State) (p : Fin 4) (C : Nat) : EventUnit :=
  let n := txOf p
  let e := s.stream n
  let fifo := (s.port p).txFifo
  let ended : Word → Nat → Event := fun reason discarded =>
    ⟨.streamEnded, BitVec.ofNat 8 n.val, reason, wholeFrames e.sent C, BitVec.ofNat 16 (min 65535 discarded), s.time.counter⟩
  match e.active with
  | none => s.events
  | some ds =>
    if e.state = .pending then raisedIf ds.enables.lifecycle s.events ⟨.streamStarted, BitVec.ofNat 8 n.val,
      BitVec.ofNat 16 ds.runFrames, BitVec.ofNat 16 (s.ring (.stream n)).consumer, 0, s.time.counter⟩
    else if e.state = .stopping then raisedIf ds.enables.lifecycle s.events
      (ended (if e.stopping = some .starved then 4 else 2) (e.discarded + fifo.length))
    else if e.state = .running ∧ e.limitReached = true ∧ fifo = [] ∧ fetchUnderWay s p = false then
      raisedIf ds.enables.lifecycle s.events (ended 1 e.discarded)
    else s.events

/-- FRAME is reported with this index for each stream of the port that is not ABSENT, the transmit stream first (R104; log 17). -/
def frameReported (s : State) (p : Fin 4) (index : Nat) : State := (s.occur (txOf p) .frame index).occur (rxOf p) .frame index

/-- Every reserved place holds the idle word (R105). -/
def paddedWith (idle : Word) (f : List RxEntry) : List RxEntry := f.map fun z => match z with
  | .reserved c => .sample idle c
  | z => z

/-- `s` as an early sync leaves it for the boundary: an admitted frame of the port is padded (R105), and a RUNNING and TAKING
transmit stream at a channel k other than 0 discards words for channels k to C − 1, and is WAITING with its starvation timer at
0 if they do not reach (R106). -/
def earlySyncRepaired (s : State) (p : Fin 4) (d : PortDef) : State :=
  let q := s.port p
  let e := s.stream (txOf p)
  let C := d.channels
  let got := min (C - e.k) q.txFifo.length
  let fifo := if q.admitted then paddedWith d.idle q.rxFifo else q.rxFifo
  if e.state = .running ∧ q.tx = .taking ∧ e.k ≠ 0 then
    (s.setStream (txOf p) { e with
      taken := e.taken + got, discarded := e.discarded + got
      k := if e.k + got < C then e.k + got else 0
      starvation := if e.k + got < C then some 0 else e.starvation }).setPort p
    { q with rxFifo := fifo, admitted := false, txFifo := q.txFifo.drop got, tx := if e.k + got < C then .waiting else .taking }
  else s.setPort p { q with rxFifo := fifo, admitted := false }

/-- The parts of the state that no step of a sample port touches. -/
def PortStepFrame (s t : State) : Prop :=
  t.start = s.start ∧ t.path = s.path ∧ t.arb.counts = s.arb.counts ∧ t.rings = s.rings ∧ t.engines = s.engines ∧
  t.watches = s.watches ∧ t.cmd = s.cmd ∧ t.time = s.time ∧ t.mem = s.mem ∧ t.freeCount = s.freeCount ∧
  t.pending = s.pending

/-- The burst under way goes on, of no run any more if it was granted for a run of stream n (R59, R68, R71; log 27). -/
def BurstOutlivesRun (u v : PortUse) (n : Fin 8) : Prop :=
  (∀ b, u = .fetch b → v = .fetch { b with runStands := b.runStands && decide (txOf b.port ≠ n) }) ∧
  (∀ b, u = .deposit b → v = .deposit { b with runStands := b.runStands && decide (rxOf b.port ≠ n) }) ∧
  ((∀ b, u ≠ .fetch b) → (∀ b, u ≠ .deposit b) → v = u)

/-- The effect is on the ring of stream n. -/
abbrev ActsOn (e : Effect) (n : Fin 8) : Prop :=
  e = .post (.stream n) ∨ e = .consume (.stream n) ∨ ∃ slot, e = .order n slot

/-- A run of the stream is under way (R49). -/
def inRun : StreamState → Bool
  | .absent | .idle => false
  | .armed | .pending | .running | .stopping => true

/-- The faults a stream has (R49, R73). -/
def canHave (n : Fin 8) : StreamFault → Bool
  | .underrun | .refused | .order => isTx n
  | .overrun | .empty => !isTx n
  | .frame => true

/-- The other ports, their detectors and their streams are as before. -/
def OtherPortsKept (s t : State) (p : Fin 4) : Prop :=
  ∀ q : Fin 4, q ≠ p → t.port q = s.port q ∧ t.detector q = s.detector q ∧ t.stream (txOf q) = s.stream (txOf q) ∧
    t.stream (rxOf q) = s.stream (rxOf q)

/-- A ring in the order R23 gives: the indices below the slot count, and the fill the distance from consumer to producer. A
ring that does not exist is as freshly created. -/
abbrev RingInOrder (count : Nat) (v : Ring) : Prop :=
  if count = 0 then v.producer = 0 ∧ v.consumer = 0 ∧ v.fill = 0
  else v.producer < count ∧ v.consumer < count ∧ v.fill ≤ count ∧ v.producer = (v.consumer + v.fill) % count

/-- What a forwarded access will do to a ring is still possible (R35): a posting finds room, a consumption finds a filled slot. -/
def PathClaim (s : State) : Prop :=
  (∀ a r, s.path.phase = .forwarded a (.post r) → r.supply = true ∧ (s.ring r).fill < s.slotCount r) ∧
  (∀ a r, s.path.phase = .forwarded a (.consume r) → r.supply = false ∧ 0 < (s.ring r).fill)

/-- What the burst under way will do to a ring is still possible (R37, R39, R40). -/
def BurstClaim (s : State) : Prop :=
  (∀ b, s.arb.use = .fetch b → b.ringStands = true → b.reads.length ≤ (s.ring (.stream (txOf b.port))).fill) ∧
  (∀ b, s.arb.use = .deposit b → b.ringStands = true →
    b.writes.length + (s.ring (.stream (rxOf b.port))).fill ≤ s.slotCount (.stream (rxOf b.port))) ∧
  (∀ ws, s.arb.use = .eventRecord ws → (s.ring .event).fill < 32)

/-- The Command Unit's record is in the command ring from its taking to its result (R137, R38). -/
def CommandClaim (s : State) : Prop := s.cmd.state ≠ .waiting → 0 < (s.ring .command).fill

/-- Every ring is in order, and everything under way finds the ring it was judged or granted against. -/
def RingsInOrder (s : State) : Prop :=
  (∀ r, RingInOrder (s.slotCount r) (s.ring r)) ∧ PathClaim s ∧ BurstClaim s ∧ CommandClaim s

/-- The bounds of the FIFOs and the pending queue (R91, R98, R167), with what keeps them: an open gate has room for its END mark,
and a fetch burst has room for its words. -/
def QueuesBounded (s : State) : Prop :=
  (∀ p, (s.port p).txFifo.length ≤ 32 ∧ placeCount (s.port p).rxFifo ≤ 32 ∧ markCount (s.port p).rxFifo ≤ 8 ∧
    ((s.stream (rxOf p)).gateOpen = true → markCount (s.port p).rxFifo ≤ 7)) ∧
  (∀ b, s.arb.use = .fetch b → b.ringStands = true → b.runStands = true →
    b.reads.length + (s.port b.port).txFifo.length ≤ 32) ∧
  s.events.queue.length ≤ 8 ∧ s.events.dropped ≤ 65535 ∧ (∀ q ∈ s.events.queue, q.carried ≤ 65535)

/-- What DEFINE STREAM takes (R146). -/
abbrev StreamInRange (d : StreamDef) : Prop :=
  16 ≤ d.length ∧ d.length ≤ 32768 ∧ d.burstCode ∈ [0, 1, 2, 4, 8, 16] ∧ d.holdLimit ≤ 250 ∧ d.starvation ≤ 255 ∧
  d.runFrames ≤ 65535

/-- What DEFINE PORT takes (R145). -/
abbrev PortInRange (d : PortDef) : Prop :=
  1 ≤ d.channels ∧ d.channels ≤ 8 ∧ 16 * d.channels ≤ d.frameBits ∧ d.frameBits ≤ 256 ∧ 1 ≤ d.divider ∧ d.divider ≤ 256

/-- What DEFINE DETECTOR takes (R147). -/
abbrev DetectorInRange (d : DetectorDef) : Prop :=
  d.blockFrames ∈ [8, 16, 32, 64, 128, 256] ∧ d.onThreshold ≤ 32767 ∧ d.offThreshold ≤ d.onThreshold ∧
  1 ≤ d.onTime ∧ d.onTime ≤ 255 ∧ 1 ≤ d.offTime ∧ d.offTime ≤ 255

/-- Every definition, active or staged, is one the DEFINE commands take. -/
def DefinitionsInRange (s : State) : Prop :=
  (∀ (n : Fin 8) d, (s.stream n).active = some d ∨ s.cmd.staged.streams[n.val] = some d → StreamInRange d) ∧
  (∀ (p : Fin 4) d, (s.port p).active = some d ∨ s.cmd.staged.ports[p.val] = some d → PortInRange d) ∧
  (∀ (p : Fin 4) d, (s.detector p).active = some d ∨ s.cmd.staged.detectors[p.val] = some d → DetectorInRange d)

/-- Whether APPLY's record names object i: streams 0 to 7, ports 8 to 11, detectors 12 to 15, watches 16 to 19 (R149). -/
def named (r : CommandRecord) (i : Nat) : Bool := if i < 16 then (r.p 0).getLsbD i else (r.p 1).getLsbD (i - 16)

/-- The resulting configuration: the staged copy of a named object, the active definition of another (R149). -/
def resStream (s : State) (r : CommandRecord) (n : Fin 8) : Option StreamDef :=
  if named r n.val then s.cmd.staged.streams[n.val] else (s.stream n).active

def resPort (s : State) (r : CommandRecord) (p : Fin 4) : Option PortDef :=
  if named r (8 + p.val) then s.cmd.staged.ports[p.val] else (s.port p).active

def resDetector (s : State) (r : CommandRecord) (p : Fin 4) : Option DetectorDef :=
  if named r (12 + p.val) then s.cmd.staged.detectors[p.val] else (s.detector p).active

def resWatch (s : State) (r : CommandRecord) (w : Fin 4) : Option WatchDef :=
  if named r (16 + w.val) then s.cmd.staged.watches[w.val] else (s.watch w).active

/-- ABSENT or IDLE. -/
def Rests (s : State) (n : Fin 8) : Prop := (s.stream n).state = .absent ∨ (s.stream n).state = .idle

/-- Object i passes its busy check (R149): only a named object has one, and a watch has none. -/
def BusyPasses (s : State) (r : CommandRecord) (i : Nat) : Prop :=
  named r i = true →
    (∀ n : Fin 8, i = n.val → Rests s n) ∧
    (∀ p : Fin 4, i = 8 + p.val → Rests s (txOf p) ∧ Rests s (rxOf p)) ∧
    (∀ p : Fin 4, i = 12 + p.val → Rests s (rxOf p))

/-- A word lies in a stream window (R6). -/
def InWindow (d : StreamDef) (a : Nat) : Prop := d.base.toNat ≤ a ∧ a < d.base.toNat + d.length

/-- A word lies in the control area (R5). -/
def InControl (s : State) (a : Nat) : Prop := s.controlBase ≤ a ∧ a < s.controlBase + 400

/-- Object i passes its consistency checks if it is present in the resulting configuration (R150). -/
def Consistent (s : State) (r : CommandRecord) (i : Nat) : Prop :=
  (∀ (n : Fin 8) d, i = n.val → resStream s r n = some d →
    (∃ q, resPort s r (portOf n) = some q ∧ d.length % q.channels = 0) ∧ d.base.toNat + d.length - 1 ≤ 0x7FFFF ∧
    (∀ a, InWindow d a → ¬ InControl s a) ∧
    ∀ m d', m ≠ n → resStream s r m = some d' → ∀ a, InWindow d a → ¬ InWindow d' a) ∧
  (∀ (p : Fin 4) g, i = 12 + p.val → resDetector s r p = some g →
    (∃ d, resStream s r (rxOf p) = some d) ∧
    ∃ q, resPort s r p = some q ∧ ∀ j, j < 8 → g.mask.getLsbD j = true → j < q.channels) ∧
  (∀ (w : Fin 4) x, i = 16 + w.val → resWatch s r w = some x →
    ¬ InControl s x.addr.toNat ∧ ∀ n d, resStream s r n = some d → ¬ InWindow d x.addr.toNat)

/-- A command whose number field names no object of its kind returns INVALID with detail 0 (R143). -/
def NumberChecked (i : Instr) (code : Byte) (count : Nat) : Prop :=
  ∀ (s : State) (r : CommandRecord), Executing s r code → count ≤ (lowByte (r.p 0)).toNat →
    exec i s = .next (answered s r .invalid 0 none)

/-- A command that needs a present stream returns NOTREADY with the number of an ABSENT one (R143). -/
def AbsentRefused (i : Instr) (code : Byte) : Prop :=
  ∀ (s : State) (r : CommandRecord) (n : Fin 8), Executing s r code → (lowByte (r.p 0)).toNat = n.val →
    (s.stream n).state = .absent → exec i s = .next (answered s r .notready n.val none)

/-- The changes of state a stream can make in one step (R49, R52 to R59, R64, R65, R77, R80, R81). -/
def LifeCycle : StreamState → StreamState → Prop
  | .absent, x => x = .absent ∨ x = .idle
  | .idle, x => x = .idle ∨ x = .absent ∨ x = .armed ∨ x = .pending
  | .armed, x => x = .armed ∨ x = .pending ∨ x = .idle ∨ x = .absent
  | .pending, x => x = .pending ∨ x = .running ∨ x = .idle ∨ x = .absent
  | .running, x => x = .running ∨ x = .stopping ∨ x = .idle ∨ x = .absent
  | .stopping, x => x = .stopping ∨ x = .idle ∨ x = .absent

end Sys2Proof.Claims

open Sys2Proof Sys2Proof.Machine Sys2Proof.Claims

/-! ### The queue and the steps as a whole -/

/-- A step with a command at the front of the queue is that command on the state with the queue's rest. -/
def Obligations.StepRunsTheFrontCommand : Prop :=
  ∀ (c : Instr) (rest : List Instr) (s : State), s.pending = c :: rest → step s = exec c { s with pending := rest }

/-- With an empty queue a microsecond passes (the model's choice, log 2): the time held, the INT# pulse and the starvation timers
that run count up to their limits, and nothing else changes; in RESET and SAFE nothing does. -/
def Obligations.EmptyQueueLetsAMicrosecondPass : Prop :=
  ∀ s : State, s.pending = [] →
    (s.live = false → step s = .next s) ∧
    (s.live = true → ∃ t, step s = .next t ∧
      t = { s with path := { s.path with phase := t.path.phase }, streams := t.streams,
                   events := { s.events with pulse := t.events.pulse } } ∧
      (∀ h, s.path.phase = .held h →
        t.path.phase = .held { h with time := if h.time < h.limit then h.time + 1 else h.time }) ∧
      ((∀ h, s.path.phase ≠ .held h) → t.path.phase = s.path.phase) ∧
      (s.events.pulse = none → t.events.pulse = none) ∧
      (∀ k, s.events.pulse = some k → t.events.pulse = some (if k < 1 then k + 1 else k)) ∧
      (∀ n, (s.stream n).starvation = none → t.stream n = s.stream n) ∧
      (∀ n d k, (s.stream n).starvation = some k → (s.stream n).active = some d →
        let limit := if d.starvation = 0 then 1000000 else d.starvation * 5000
        t.stream n = { s.stream n with starvation := some (if k < limit then k + 1 else k) }))

/-- Every command answers a next state, and leaves the queue. That no command ever stops is the model's choice (log 25), and so is
that a command whose event cannot come answers the state as it was (log 1). -/
def Obligations.EveryCommandGoesOnAndLeavesTheQueue : Prop :=
  ∀ (c : Instr) (s : State), ∃ t, exec c s = .next t ∧ t.pending = s.pending

/-- In RESET and SAFE only accesses, RST# and the end of an access do anything (R19, R81, R182); RST# falls only when it is high
and rises only when it is low. That a step that cannot come is not taken is the model's choice (log 1). -/
def Obligations.ResetAndSafeTakeNothing : Prop :=
  (∀ (c : Instr) (s : State), s.live = false → (∀ a, c ≠ .accessArrival a) → c ≠ .pcsOrStrobesHigh → c ≠ .rstFall →
    (∀ base bpar, c ≠ .rstRise base bpar) → exec c s = .next s) ∧
  (∀ s : State, s.start.part = .reset → exec .rstFall s = .next s) ∧
  (∀ (base : BitVec 4) (bpar : Bool) (s : State), s.start.part ≠ .reset → exec (.rstRise base bpar) s = .next s)

/-- Memory, the time tag and the part state change at their own steps only. -/
def Obligations.MemoryTimeAndPartStateChangeAtTheirStepsOnly : Prop :=
  ∀ (c : Instr) (s t : State), exec c s = .next t →
    ((∀ a, c ≠ .accessArrival a) → c ≠ .passageComplete → c ≠ .depositWordComplete → c ≠ .commandResultWritten →
      c ≠ .eventRecordWritten → c ≠ .identityFirstBurstComplete → c ≠ .identityBurstComplete → c ≠ .rstFall →
      t.mem = s.mem) ∧
    (c ≠ .tagclkEdge → c ≠ .internalTimeTagIncrease → c ≠ .setTime → c ≠ .rstFall → (∀ b q, c ≠ .rstRise b q) →
      t.time = s.time) ∧
    (c ≠ .identityBurstComplete → c ≠ .rstFall → (∀ b q, c ≠ .rstRise b q) →
      t.start.part = s.start.part ∧ t.start.base = s.start.base ∧ t.start.bpar = s.start.bpar)

/-! ### Reset and start-up -/

/-- The state after reset, block by block and field by field, and that it meets the invariants stated below. The strap values,
the cause and PD are the model's choice (log 5), the replay values of an ABSENT stream too (log 13), and so are the numbers of
slots and words of a frame and the word on SDOn (log 10). -/
def Obligations.ResetStateHasTheResetValues : Prop :=
  (State.reset.start = { part := .reset, base := 0, bpar := false, cause := .pin, identity := { phase := .idle, owed := false } } ∧
  State.reset.path = { phase := .ready, bus := none, pd := 0 } ∧
  State.reset.prdy = true ∧ State.reset.int = true ∧ State.reset.pflt = true ∧
  State.reset.arb.use = .free ∧ (∀ r, State.reset.passedOver r = 0) ∧
  (∀ r, (State.reset.ring r).producer = 0 ∧ (State.reset.ring r).consumer = 0 ∧ (State.reset.ring r).fill = 0) ∧
  (∀ n, State.reset.stream n =
    { active := none, state := .absent, stopping := none, limit := none, limitReached := false, extension := none
      fetched := 0, taken := 0, sent := 0, admitted := 0, deposited := 0, discarded := 0
      flags := Vector.replicate 6 false, counts := Vector.replicate 6 0, k := 0, replay := Vector.replicate 8 0
      attenuation := 0, mute := false, starvation := none, gateOpen := false, segOpen := false, segWords := 0 }) ∧
  txOf State.reset.engines.lastFetch = 6 ∧ rxOf State.reset.engines.lastDeposit = 7 ∧
  (∀ p, State.reset.port p =
    { active := none, sync := .none, framePos := none, framesSeen := 0, txFifo := [], rxFifo := [], tx := .taking
      admitted := false, slotsStarted := 0, wordsDone := 0, slotWord := 0 } ∧
    State.reset.sdo p = none ∧ State.reset.drivesClock p = false) ∧
  (∀ p, State.reset.detector p = { active := none, state := .quiet, count := 0, frames := 0, peak := 0, last := 0 }) ∧
  (∀ w, State.reset.watch w = { active := none, matching := false }) ∧
  State.reset.cmd = { state := .waiting, staged := Staged.none } ∧
  State.reset.events = { queue := [], dropped := 0, line := .level, pulse := none } ∧
  State.reset.time = { counter := 0, source := .internal } ∧ State.reset.mem = [] ∧ State.reset.pending = []) ∧
  (Memory.wf State.reset.mem = true ∧ RingsInOrder State.reset ∧ QueuesBounded State.reset ∧ DefinitionsInRange State.reset)

/-- RST_RISE samples the straps and counts their ones: STARTING at BASE × 0x8000 with the identity block asked for, or SAFE;
the cause is a pin reset (R181, R183). -/
def Obligations.RstRiseSamplesTheStraps : Prop :=
  ∀ (base : BitVec 4) (bpar : Bool) (s : State), s.start.part = .reset →
    ∃ t, exec (.rstRise base bpar) s = .next t ∧
      t.start.base = base ∧ t.start.bpar = bpar ∧ t.start.cause = .pin ∧ t.start.cause.number = 1 ∧
      (ones base bpar % 2 = 1 → t.start.part = .starting ∧ t.controlBase = base.toNat * 0x8000 ∧ t.pflt = true ∧
        t.start.identity = { phase := .firstDue, owed := false }) ∧
      (ones base bpar % 2 = 0 → t.start.part = .safe ∧ t.pflt = false ∧
        t.start.identity = { phase := .idle, owed := false }) ∧
      BlocksAsReset t ∧ t.mem = s.mem ∧ t.path.pd = s.path.pd ∧ t.prdy = true ∧ t.freeCount = s.freeCount ∧
      t.pending = s.pending

/-- The passed-over counts are 0 and the engines look at streams 0 and 1 first after a rise of RST#; RESET PART and APPLY leave
the counts and the positions (R18, R72). -/
def Obligations.CountsAndPositionsAcrossResets : Prop :=
  (∀ base bpar (s : State), s.start.part = .reset → ∃ t, exec (.rstRise base bpar) s = .next t ∧
    (∀ r, t.passedOver r = 0) ∧ txOf t.engines.lastFetch = 6 ∧ rxOf t.engines.lastDeposit = 7 ∧
    (∀ f : Fin 4 → Bool, nextServed t.engines.lastFetch f = [0, 1, 2, 3].find? f ∧
      nextServed t.engines.lastDeposit f = [0, 1, 2, 3].find? f)) ∧
  (∀ c (s : State), c = .resetPart ∨ c = .apply → ∃ t, exec c s = .next t ∧ t.arb.counts = s.arb.counts ∧
    t.engines = s.engines)

/-- RST_FALL in any part state but RESET: every block is as after reset, PRDY, INT# and PFLT# are high, the memory port follows
the processor port, of a burst under way the first words have landed and the rest is as it was, and then a held or forwarded
access goes straight to the RAM (R20, R180, R189). How many words of the burst land is open (log 7); of a deposit burst without
its ring none does (log 8). That an access withdrawn early still goes to the RAM, and one already ended makes no second cycle,
is read from the manual (log 14). -/
def Obligations.RstFallEndsEverything : Prop :=
  ∀ s : State, s.start.part ≠ .reset → ∃ t k, exec .rstFall s = .next t ∧
    t.start = { s.start with part := .reset, identity := { phase := .idle, owed := false } } ∧ BlocksAsReset t ∧
    t.prdy = true ∧ t.int = true ∧ t.pflt = true ∧ t.pending = s.pending ∧ t.path.bus = s.path.bus ∧
    t.memoryPins = s.path.bus.map BusCycle.memoryPins ∧
    k ≤ s.arb.use.writes.length ∧ (∀ b, s.arb.use = .deposit b → k ≤ if b.ringStands then 1 else 0) ∧
    let burst := Memory.storeAll s.mem (s.arb.use.writes.take k)
    let underWay : Access → Prop := fun a =>
      (∃ h, s.path.phase = .held h ∧ h.access = a) ∨ ∃ e, s.path.phase = .forwarded a e
    ((∀ a, ¬ underWay a) → t.mem = burst ∧ t.path.pd = s.path.pd) ∧
    (∀ a d, underWay a → a.kind = .write d →
      t.mem = Memory.store burst a.addr a.high a.low d ∧ t.path.pd = s.path.pd) ∧
    (∀ a, underWay a → a.kind = .read → t.mem = burst ∧
      (a.high = true → highByte t.path.pd = Memory.byteAt burst (Memory.highKey a.addr)) ∧
      (a.low = true → lowByte t.path.pd = Memory.byteAt burst (Memory.lowKey a.addr)))

/-- The identity block: its first burst lands and frees the port; its second lands, STARTED is raised, an owed write is due,
and STARTING ends in OPERATING, where a posted record is taken (R184, R185, R188). That the eight words of a burst reach memory in
one step, at its last word, is the model's reading (log 9). -/
def Obligations.IdentityWriteEndsInStarted : Prop :=
  (∀ (s : State) ws, s.live = true → s.arb.use = .identityFirst ws →
    exec .identityFirstBurstComplete s =
      .next { s with mem := Memory.storeAll s.mem ws, arb := { s.arb with use := .free } }) ∧
  (∀ (s : State) ws, s.live = true → s.arb.use = .identitySecond ws →
    ∃ t, exec .identityBurstComplete s = .next t ∧
      t = { s with
        mem := Memory.storeAll s.mem ws
        arb := { s.arb with use := .free }
        start := { s.start with
          part := .operating
          identity := { phase := if s.start.identity.owed then .firstDue else .idle, owed := false } }
        events := s.events.raise
          { kind := .started, source := 0xFF, a := BitVec.ofNat 16 s.start.cause.number,
            b := BitVec.ofNat 16 s.start.base.toNat, c := 0, tag := s.time.counter }
        cmd := t.cmd } ∧
      (s.start.part = .starting → s.cmd.state = .waiting → 1 ≤ (s.ring .command).fill →
        t.cmd = { s.cmd with state := .reading (s.ring .command).consumer }) ∧
      (s.start.part ≠ .starting ∨ s.cmd.state ≠ .waiting ∨ (s.ring .command).fill = 0 → t.cmd = s.cmd))

/-! ### The processor's accesses -/

/-- In RESET and SAFE an access reaches memory unchanged with PRDY high, the memory port following the processor port line by
line until PCS# or both strobes go high (R19). That the access is one step, with its effect on memory and on PD at its arrival,
and that every arrival is taken whatever the phase, is the model's choice (log 21). A lane a read did not select is free (log
6). -/
def Obligations.TransparentAccessReachesMemory : Prop :=
  (∀ (c : BusCycle) (s : State), s.live = false → (c.poeLow || c.pweLow) = true →
    ∃ t, exec (.accessArrival c) s = .next t ∧ t.prdy = true ∧
      t = { s with path := { phase := .transparent, bus := some c, pd := t.path.pd }, mem := t.mem, freeCount := t.freeCount } ∧
      t.memoryPins = some
        { ma := c.addr, mcs := false, moe := !c.poeLow, mwe := !c.pweLow, mub := !c.pubLow, mlb := !c.plbLow
          md := if c.pweLow then some c.data else none } ∧
      (c.pweLow = true → t.mem = Memory.store s.mem c.addr c.pubLow c.plbLow c.data ∧ t.path.pd = s.path.pd) ∧
      (c.pweLow = false → t.mem = s.mem ∧
        (c.pubLow = true → highByte t.path.pd = Memory.byteAt s.mem (Memory.highKey c.addr)) ∧
        (c.plbLow = true → lowByte t.path.pd = Memory.byteAt s.mem (Memory.lowKey c.addr)))) ∧
  (∀ s : State, s.live = false → (s.path.phase = .ready ∨ s.path.phase = .transparent) →
    ∃ t, exec .pcsOrStrobesHigh s = .next t ∧ t.memoryPins = none ∧ t.prdy = true ∧
      t = { s with path := { s.path with phase := .ready, bus := none } })

/-- The control area by its offsets, then the stream windows, then nothing (R4, R5, R6). -/
def Obligations.AddressesDecodeToTheirWindows : Prop :=
  ∀ (s : State) (a : Addr),
    let off := a.toNat - s.controlBase
    (s.controlBase ≤ a.toNat → off < 0x010 → s.decode a = .identity) ∧
    (s.controlBase ≤ a.toNat → 0x010 ≤ off → off < 0x090 →
      s.decode a = .ring .command ((off - 0x010) / 8) ((off - 0x010) % 8)) ∧
    (s.controlBase ≤ a.toNat → 0x090 ≤ off → off < 0x190 →
      s.decode a = .ring .event ((off - 0x090) / 8) ((off - 0x090) % 8)) ∧
    ((a.toNat < s.controlBase ∨ s.controlBase + 400 ≤ a.toNat) →
      (∀ n d, (s.stream n).active = some d → (s.stream n).state ≠ .absent → d.base.toNat ≤ a.toNat →
        a.toNat < d.base.toNat + d.length →
        (∀ m d', m ≠ n → (s.stream m).active = some d' → (s.stream m).state ≠ .absent →
          a.toNat < d'.base.toNat ∨ d'.base.toNat + d'.length ≤ a.toNat) →
        s.decode a = .ring (.stream n) (a.toNat - d.base.toNat) 0) ∧
      ((∀ m d', (s.stream m).active = some d' → (s.stream m).state ≠ .absent →
          a.toNat < d'.base.toNat ∨ d'.base.toNat + d'.length ≤ a.toNat) →
        s.decode a = .outside))

/-- An access with no lane, an access to the identity block and a read outside every window are forwarded with no effect, PRDY
low; while the Path Unit has an access no other arrives (R1 to R5). -/
def Obligations.UnreferredAccessIsForwarded : Prop :=
  (∀ (c : BusCycle) (s : State), Arrives c s →
    ((c.pubLow = false ∧ c.plbLow = false) ∨ s.decode c.addr = .identity ∨
      (s.decode c.addr = .outside ∧ c.pweLow = false)) →
    exec (.accessArrival c) s = .next (forwardedWith (onBus c s) (accessOf c) .none) ∧
      (forwardedWith (onBus c s) (accessOf c) .none).prdy = false) ∧
  (∀ (c : BusCycle) (s : State), s.live = true → s.path.phase ≠ .ready → exec (.accessArrival c) s = .next s)

/-- An access to the ring of a transmit stream: a posting, a held or refused posting, a rewrite, an ORDER write, or a plain
pass. On the command ring only a full write of word 7 with a nonzero code can post or be held, and a write to an empty slot
other than the producer raises nothing (R24 to R29). -/
def Obligations.SupplyRingAccessIsJudged : Prop :=
  (∀ (c : BusCycle) (s : State) (n : Fin 8) (d : StreamDef) (slot : Nat), Arrives c s → isTx n = true →
    (c.pubLow || c.plbLow) = true → s.decode c.addr = .ring (.stream n) slot 0 → (s.stream n).active = some d →
    (s.ring (.stream n)).consumer < d.length → slot < d.length → (s.ring (.stream n)).fill ≤ d.length →
    let v := s.ring (.stream n)
    let a := accessOf c
    let qualifying := c.pweLow = true ∧ c.pubLow = true
    (¬ qualifying → exec (.accessArrival c) s = .next (forwardedWith (onBus c s) a .none)) ∧
    (qualifying → slot = v.producer → v.fill < d.length →
      exec (.accessArrival c) s = .next (forwardedWith (onBus c s) a (.post (.stream n)))) ∧
    (qualifying → slot = v.producer → v.fill = d.length → 0 < d.holdLimit →
      exec (.accessArrival c) s = .next (heldWith (onBus c s) a (.stream n) slot 0 d.holdLimit)) ∧
    (qualifying → slot = v.producer → v.fill = d.length → d.holdLimit = 0 →
      exec (.accessArrival c) s = .next (endedWith ((onBus c s).occur n .refused slot) s.path.pd)) ∧
    (qualifying → slot ≠ v.producer → Filled d.length v slot →
      exec (.accessArrival c) s = .next (forwardedWith (onBus c s) a .none)) ∧
    (qualifying → slot ≠ v.producer → ¬ Filled d.length v slot →
      exec (.accessArrival c) s = .next (forwardedWith (onBus c s) a (.order n slot)))) ∧
  (∀ (c : BusCycle) (s : State) (slot w : Nat), Arrives c s → (c.pubLow || c.plbLow) = true →
    s.decode c.addr = .ring .command slot w →
    let v := s.ring .command
    let a := accessOf c
    let qualifying := c.pweLow = true ∧ w = 7 ∧ c.pubLow = true ∧ c.plbLow = true ∧ lowByte c.data ≠ 0
    (¬ qualifying ∨ slot ≠ v.producer → exec (.accessArrival c) s = .next (forwardedWith (onBus c s) a .none)) ∧
    (qualifying → slot = v.producer → v.fill < 16 →
      exec (.accessArrival c) s = .next (forwardedWith (onBus c s) a (.post .command))) ∧
    (qualifying → slot = v.producer → 16 ≤ v.fill →
      exec (.accessArrival c) s = .next (heldWith (onBus c s) a .command slot 7 50)))

/-- An access to the ring of a receive stream: a consuming read, a held read, a read answered at once with the idle word and
EMPTY, or a plain pass. On the event ring a read of any word of the consumer record of an empty ring is answered 0x0000 at
once, and a read of word 7 of a filled one consumes it at its completion (R30 to R34). -/
def Obligations.DepositRingAccessIsJudged : Prop :=
  (∀ (c : BusCycle) (s : State) (n : Fin 8) (d : StreamDef) (slot : Nat), Arrives c s → isTx n = false →
    (c.pubLow || c.plbLow) = true → s.decode c.addr = .ring (.stream n) slot 0 → (s.stream n).active = some d →
    let v := s.ring (.stream n)
    let a := accessOf c
    (c.pweLow = true ∨ slot ≠ v.consumer → exec (.accessArrival c) s = .next (forwardedWith (onBus c s) a .none)) ∧
    (c.pweLow = false → slot = v.consumer → 1 ≤ v.fill →
      exec (.accessArrival c) s = .next (forwardedWith (onBus c s) a (.consume (.stream n)))) ∧
    (c.pweLow = false → slot = v.consumer → v.fill = 0 → 0 < d.holdLimit →
      exec (.accessArrival c) s = .next (heldWith (onBus c s) a (.stream n) slot 0 d.holdLimit)) ∧
    (c.pweLow = false → slot = v.consumer → v.fill = 0 → d.holdLimit = 0 →
      exec (.accessArrival c) s = .next (endedWith ((onBus c s).occur n .empty slot) (s.idleWord (portOf n))))) ∧
  (∀ (c : BusCycle) (s : State) (slot w : Nat), Arrives c s → (c.pubLow || c.plbLow) = true →
    s.decode c.addr = .ring .event slot w →
    let v := s.ring .event
    let a := accessOf c
    (c.pweLow = false → slot = v.consumer → v.fill = 0 → exec (.accessArrival c) s = .next (endedWith (onBus c s) 0)) ∧
    (c.pweLow = false → slot = v.consumer → 1 ≤ v.fill → w = 7 →
      exec (.accessArrival c) s = .next (forwardedWith (onBus c s) a (.consume .event))) ∧
    (c.pweLow = true ∨ slot ≠ v.consumer ∨ (1 ≤ v.fill ∧ w ≠ 7) →
      exec (.accessArrival c) s = .next (forwardedWith (onBus c s) a .none)))

/-- The taking-part bits are the mask bits in a written lane; a write to the watch's address with at least one is evaluated, and
matches by the mode (R130). The hit follows the trigger, and the last-match state the evaluation. -/
def Obligations.WatchMatchesByItsMode : Prop :=
  ∀ (e : WatchEntry) (d : WatchDef) (a : Access) (data : Word), e.active = some d →
    let part := fun i => d.mask.getLsbD i = true ∧ ((8 ≤ i ∧ a.high = true) ∨ (i < 8 ∧ a.low = true))
    let evaluated := d.addr = a.addr ∧ ∃ i, i < 16 ∧ part i
    let holds := match d.mode with
      | .any => ∃ i, i < 16 ∧ part i ∧ data.getLsbD i = true
      | .all => ∀ i, i < 16 → part i → data.getLsbD i = true
      | .none => ∀ i, i < 16 → part i → data.getLsbD i = false
    (e.isHit a data = true ↔ evaluated ∧ holds ∧ (d.trigger = .each ∨ e.matching = false)) ∧
    (¬ evaluated → e.after a data = e) ∧
    (evaluated → (e.after a data).active = e.active ∧ ((e.after a data).matching = true ↔ holds))

/-- A write outside every window: each watch's last-match state, one WATCH_HIT for each hitting watch in number order, and the
write discarded if one of them blocks, forwarded if none does (R7, R10, R132, R133). -/
def Obligations.WatchedWriteIsNotedOrBlocked : Prop :=
  ∀ (c : BusCycle) (s : State), Arrives c s → c.pweLow = true → (c.pubLow || c.plbLow) = true →
    s.decode c.addr = .outside →
    let a := accessOf c
    let hits := ([0, 1, 2, 3] : List (Fin 4)).filter fun w => (s.watch w).isHit a c.data
    let blocked := hits.any fun w => (s.watch w).blocks
    let noted := { onBus c s with
      watches := s.watches.map fun e => e.after a c.data
      events := hits.foldl (fun u w => u.raise
        { kind := .watchHit, source := BitVec.ofNat 8 w.val,
          a := (if c.pubLow then highByte c.data else 0) ++ (if c.plbLow then lowByte c.data else 0),
          b := c.addr.extractLsb' 0 16, c := if blocked then 1 else 0, tag := s.time.counter }) s.events }
    exec (.accessArrival c) s =
      .next (if blocked then endedWith noted s.path.pd else forwardedWith noted a .none)

/-- PASSAGE_COMPLETE: the memory cycle with the access on the memory port, PRDY high, the port free, and the effect of the
judgement (R3, R26, R29, R31, R137). That the Path Unit is ready at once if the strobes are high already is read from the manual
(log 22). -/
def Obligations.PassageCompletesTheAccess : Prop :=
  ∀ (s : State) (a : Access) (e : Effect), s.live = true → s.path.phase = .forwarded a e → s.arb.use = .passage →
    ∃ t, exec .passageComplete s = .next t ∧ t.prdy = true ∧
      (a.kind = .read → s.memoryPins = some
        { ma := a.addr, mcs := false, moe := false, mwe := true, mub := !a.high, mlb := !a.low, md := none }) ∧
      (∀ d, a.kind = .write d → s.memoryPins = some
        { ma := a.addr, mcs := false, moe := true, mwe := false, mub := !a.high, mlb := !a.low, md := some d }) ∧
      t = { s with arb := { s.arb with use := .free }
                   path := { s.path with phase := if s.path.bus = none then .ready else .ended, pd := t.path.pd }
                   mem := t.mem, freeCount := t.freeCount, rings := t.rings, streams := t.streams, events := t.events
                   cmd := t.cmd } ∧
      (∀ d, a.kind = .write d → t.mem = Memory.store s.mem a.addr a.high a.low d ∧ t.path.pd = s.path.pd) ∧
      (a.kind = .read → t.mem = s.mem ∧
        (a.high = true → highByte t.path.pd = Memory.byteAt s.mem (Memory.highKey a.addr)) ∧
        (a.low = true → lowByte t.path.pd = Memory.byteAt s.mem (Memory.lowKey a.addr))) ∧
      (e = .none → t.rings = s.rings ∧ t.streams = s.streams ∧ t.events = s.events ∧ t.cmd = s.cmd) ∧
      (∀ r, e = .post r →
        (t.ring r).producer = (if (s.ring r).producer + 1 < s.slotCount r then (s.ring r).producer + 1 else 0) ∧
        (t.ring r).consumer = (s.ring r).consumer ∧ (t.ring r).fill = (s.ring r).fill + 1 ∧
        (t.ring r).lap = (if (s.ring r).producer + 1 < s.slotCount r then (s.ring r).lap else (s.ring r).lap.map (· + 1)) ∧
        (∀ x, x ≠ r → t.ring x = s.ring x) ∧ t.streams = s.streams ∧ t.events = s.events ∧
        (r ≠ .command → t.cmd = s.cmd) ∧
        (r = .command → s.cmd.state = .waiting → s.start.part = .operating →
          t.cmd = { s.cmd with state := .reading (s.ring .command).consumer }) ∧
        (r = .command → s.cmd.state ≠ .waiting ∨ s.start.part ≠ .operating → t.cmd = s.cmd)) ∧
      (∀ r, e = .consume r →
        (t.ring r).consumer = (if (s.ring r).consumer + 1 < s.slotCount r then (s.ring r).consumer + 1 else 0) ∧
        (t.ring r).producer = (s.ring r).producer ∧ (t.ring r).fill = (s.ring r).fill - 1 ∧
        (t.ring r).lap = (s.ring r).lap ∧ (∀ x, x ≠ r → t.ring x = s.ring x) ∧ t.streams = s.streams ∧
        t.events = s.events ∧ t.cmd = s.cmd) ∧
      (∀ n slot, e = .order n slot → t.rings = s.rings ∧ t.cmd = s.cmd ∧ t.streams = (s.occur n .order slot).streams ∧
        t.events = (s.occur n .order slot).events)

/-- HOLD_EXPIRY: a held write is refused and a held read substituted, memory and every ring unchanged; with no access held the
expiry is not taken (R9, R10, R12, R27, R32, R36, R42). PCS_OR_STROBES_HIGH: after PRDY has risen the Path Unit is ready again;
before, the access is carried to its end (R1). Read from the manual or chosen: that the early end is noted and the Path Unit is
then ready when PRDY rises (log 22), that EMPTY after an APPLY carries the slot of the old window (log 15), and that an expiry
is taken whatever the time held (log 2). -/
def Obligations.HoldExpiryAndStrobesEndTheAccess : Prop :=
  (∀ (s : State) h, s.live = true → s.path.phase = .held h →
    (∀ d n, h.access.kind = .write d → h.ring = .stream n →
      exec .holdExpiry s = .next (endedWith (s.occur n .refused h.slot) s.path.pd)) ∧
    (∀ d, h.access.kind = .write d → h.ring = .command →
      let e : Event := ⟨.cmdRefused, 0xFF, BitVec.ofNat 16 h.slot, 0, 0, s.time.counter⟩
      exec .holdExpiry s = .next (endedWith { s with events := s.events.raise e } s.path.pd)) ∧
    (∀ n, h.access.kind = .read → h.ring = .stream n →
      exec .holdExpiry s = .next (endedWith (s.occur n .empty h.slot) (s.idleWord (portOf n))))) ∧
  (∀ s : State, (∀ h, s.path.phase ≠ .held h) → exec .holdExpiry s = .next s) ∧
  (∀ s : State,
    (s.path.phase = .ready ∨ s.path.phase = .ended ∨ s.path.phase = .transparent →
      exec .pcsOrStrobesHigh s = .next { s with path := { s.path with phase := .ready, bus := none } }) ∧
    ((∃ h, s.path.phase = .held h) ∨ (∃ a e, s.path.phase = .forwarded a e) →
      exec .pcsOrStrobesHigh s = .next { s with path := { s.path with bus := none } }))

/-! ### The arbiter and the bursts -/

/-- The rule of the grant (R16): PASSAGE unless a waiting part requester has been passed over twice, else the one passed over
most and of highest rank among equals; the counts follow; a busy port grants nothing. That in STARTING an access still on the
transparent path leaves the port free for a grant is the model's choice (log 28): R16 and R21 do not say. -/
def Obligations.ArbiterGrantsByCountAndRank : Prop :=
  (∀ s : State, s.arb.use ≠ .free → exec .arbiterGrant s = .next s) ∧
  (∀ s : State, s.passageWaiting = false → (∀ r, s.requesting r = false) → exec .arbiterGrant s = .next s) ∧
  (∀ s : State, s.live = true → s.arb.use = .free → s.passageWaiting = true →
    (∀ r, s.requesting r = true → s.passedOver r < 2) →
    ∃ t, exec .arbiterGrant s = .next t ∧ t = { s with arb := { use := .passage, counts := t.arb.counts } } ∧
      ∀ r, t.passedOver r = if s.requesting r then s.passedOver r + 1 else s.passedOver r) ∧
  (∀ (s : State) r, s.live = true → s.arb.use = .free → s.requesting r = true →
    (s.passageWaiting = false ∨ ∃ q, s.requesting q = true ∧ 2 ≤ s.passedOver q) →
    (∀ q, q ≠ r → s.requesting q = true →
      s.passedOver q < s.passedOver r ∨ (s.passedOver q = s.passedOver r ∧ r.index < q.index)) →
    ∃ t, exec .arbiterGrant s = .next t ∧ ownedBy r t.arb.use = true ∧ t.passedOver r = 0 ∧
      (∀ q, q ≠ r → t.passedOver q = if s.requesting q then s.passedOver q + 1 else s.passedOver q) ∧
      t.mem = s.mem ∧ t.rings = s.rings ∧ t.streams = s.streams ∧ t.path = s.path)

/-- When a transmit stream is eligible for fetching, when a receive stream is eligible for depositing (R66, R70), and when each
requester requests: the engines, the Record Writer (R169, R171), the Command Unit (R137, R140) and PASSAGE (R3, R15). That any
mark in the RX FIFO counts, even behind reserved places, is read from the manual (log 18). -/
def Obligations.EnginesRequestForEligibleStreams : Prop :=
  (∀ (s : State) (p : Fin 4) (d : StreamDef), (s.stream (txOf p)).active = some d →
    (s.fetchEligible p = true ↔
      ((s.stream (txOf p)).state = .pending ∨ (s.stream (txOf p)).state = .running) ∧
      (s.stream (txOf p)).limitReached = false ∧ 1 ≤ (s.ring (.stream (txOf p))).fill ∧
      burstWords d (s.channels p) + (s.port p).txFifo.length ≤ 32)) ∧
  (∀ (s : State) (p : Fin 4) (d : StreamDef), (s.stream (rxOf p)).active = some d →
    (s.depositEligible p = true ↔
      ((s.stream (rxOf p)).state = .running ∨ (s.stream (rxOf p)).state = .stopping) ∧
      (∃ w c f, (s.port p).rxFifo = .sample w c :: f) ∧ (s.ring (.stream (rxOf p))).fill < d.length ∧
      (∀ b, s.arb.use = .deposit b → b.port ≠ p) ∧
      (burstWords d (s.channels p) ≤ ((s.port p).rxFifo.takeWhile RxEntry.isSample).length ∨
        (∃ k t, RxEntry.mark k t ∈ (s.port p).rxFifo) ∨ (s.stream (rxOf p)).state = .stopping ∨
        (s.stream (rxOf p)).limitReached = true))) ∧
  (∀ s : State, (s.requesting .fetch = true ↔ ∃ p, s.fetchEligible p = true) ∧
    (s.requesting .deposit = true ↔ ∃ p, s.depositEligible p = true) ∧
    (s.requesting .record = true ↔ s.start.identity.phase = .firstDue ∨ s.start.identity.phase = .secondDue ∨
      (s.events.queue ≠ [] ∧ (s.ring .event).fill < 32)) ∧
    (s.requesting .command = true ↔ (∃ slot, s.cmd.state = .reading slot) ∨ ∃ r res, s.cmd.state = .writing r res) ∧
    (s.passageWaiting = true ↔ (∃ a e, s.path.phase = .forwarded a e) ∧ s.arb.use ≠ .passage))

/-- The stream an engine serves, the first eligible one after the last served and round again, and the words of its burst, in ring
order from the consumer or the producer (R67, R71). -/
def Obligations.EngineBurstsAreSizedAtTheGrant : Prop :=
  (∀ (s t : State) (b : FetchBurst) (d : StreamDef), s.live = true → s.arb.use = .free → exec .arbiterGrant s = .next t →
    t.arb.use = .fetch b → (s.stream (txOf b.port)).active = some d → 0 < d.length →
    (s.ring (.stream (txOf b.port))).consumer < d.length →
    let v := s.ring (.stream (txOf b.port))
    let e := s.stream (txOf b.port)
    (∃ k, 1 ≤ k ∧ k ≤ 4 ∧ b.port.val = (s.engines.lastFetch.val + k) % 4 ∧ s.fetchEligible b.port = true ∧
      ∀ (q : Fin 4) (j : Nat), 1 ≤ j → j < k → q.val = (s.engines.lastFetch.val + j) % 4 → s.fetchEligible q = false) ∧
    t.engines = { s.engines with lastFetch := b.port } ∧
    t.ports = s.ports ∧ b.ringStands = true ∧ b.runStands = true ∧
    b.reads.length = min (min (burstWords d (s.channels b.port)) (min v.fill (32 - (s.port b.port).txFifo.length)))
      (match e.limit with
        | none => v.fill
        | some l => l - e.fetched) ∧
    ∀ i, (h : i < b.reads.length) → b.reads[i] = BitVec.ofNat 19 (d.base.toNat + (v.consumer + i) % d.length)) ∧
  (∀ (s t : State) (b : DepositBurst) (d : StreamDef), s.live = true → s.arb.use = .free → exec .arbiterGrant s = .next t →
    t.arb.use = .deposit b → (s.stream (rxOf b.port)).active = some d → 0 < d.length →
    (s.ring (.stream (rxOf b.port))).producer < d.length →
    let v := s.ring (.stream (rxOf b.port))
    let ready := (s.port b.port).rxFifo.takeWhile RxEntry.isSample
    (∃ k, 1 ≤ k ∧ k ≤ 4 ∧ b.port.val = (s.engines.lastDeposit.val + k) % 4 ∧ s.depositEligible b.port = true ∧
      ∀ (q : Fin 4) (j : Nat), 1 ≤ j → j < k → q.val = (s.engines.lastDeposit.val + j) % 4 → s.depositEligible q = false) ∧
    t.engines = { s.engines with lastDeposit := b.port } ∧
    b.ringStands = true ∧ b.runStands = true ∧
    b.writes.length = min (burstWords d (s.channels b.port)) (min ready.length (d.length - v.fill)) ∧
    (∀ i, (h : i < b.writes.length) → b.writes[i].1 = BitVec.ofNat 19 (d.base.toNat + (v.producer + i) % d.length) ∧
      ∃ c, (s.port b.port).rxFifo[i]? = some (.sample b.writes[i].2 c)) ∧
    t.port b.port = { s.port b.port with rxFifo := (s.port b.port).rxFifo.drop b.writes.length } ∧
    (∀ q, q ≠ b.port → t.port q = s.port q))

/-- What the Record Writer and the Command Unit write or read when they are granted (R137, R140, R169 to R171, R184, R190, R192),
with the kind codes of the events (R192) and the result codes (R142): the read of a record is granted in READING only, and
changes nothing but the port and the counts; the result is granted in WRITING only. -/
def Obligations.RecordBurstsCarryTheirWords : Prop :=
  (∀ (s t : State) ws, s.live = true → s.arb.use = .free → exec .arbiterGrant s = .next t → t.arb.use = .identityFirst ws →
    s.start.identity.phase = .firstDue ∧ t.start.identity.phase = .secondDue ∧ t.events = s.events ∧
    ws = placed s.controlBase [0x0428, 0x0001, 4, 8, 32, 16, 32, BitVec.ofNat 16 s.start.base.toNat]) ∧
  (∀ (s t : State) ws, s.live = true → s.arb.use = .free → exec .arbiterGrant s = .next t → t.arb.use = .identitySecond ws →
    s.start.identity.phase = .secondDue ∧ t.start.identity.phase = .finishing ∧ t.events = s.events ∧
    ws = placed (s.controlBase + 8) [match s.start.cause with
        | .pin => 1
        | .resetPart => 2, 50, 8, 4, 4, 0x8000, match s.time.source with
        | .internal => 0
        | .external => 1, 400]) ∧
  (∀ (s t : State) ws, s.live = true → s.arb.use = .free → exec .arbiterGrant s = .next t → t.arb.use = .eventRecord ws →
    ∃ q rest, s.events.queue = q :: rest ∧ t.events = { s.events with queue := rest } ∧ (s.ring .event).fill < 32 ∧
      s.start.identity.phase ≠ .firstDue ∧ s.start.identity.phase ≠ .secondDue ∧
      ws = placed (s.controlBase + 0x090 + 8 * (s.ring .event).producer)
        [q.event.source ++ q.event.kind.number, q.event.a, q.event.b, q.event.c, q.event.tag.extractLsb' 0 16,
          q.event.tag.extractLsb' 16 16, BitVec.ofNat 16 q.carried, BitVec.ofNat 16 ((s.ring .event).fill + 1)]) ∧
  (∀ (s t : State) ws, s.live = true → s.arb.use = .free → exec .arbiterGrant s = .next t → t.arb.use = .commandResult ws →
    ∃ r res, s.cmd.state = .writing r res ∧
      let base := s.controlBase + 0x010 + 8 * r.slot
      ws = (match res.response with
          | some v => placed base v.toList
          | none => []) ++
        placed (base + 6) [res.detail, r.tag ++ BitVec.ofNat 8 (0x80 + res.code.number)]) ∧
  (∀ s t : State, s.live = true → s.arb.use = .free → exec .arbiterGrant s = .next t → t.arb.use = .commandRead →
    (∃ slot, s.cmd.state = .reading slot) ∧ t = { s with arb := { use := .commandRead, counts := t.arb.counts } }) ∧
  ([.started, .trigger, .watchHit, .cmdRefused, .streamStarted, .streamEnded, .runExtended, .fault, .signalOnset, .signalPresent,
      .signalEnded, .segmentStart, .segmentEnd] : List EventKind).map EventKind.number =
    [0x01, 0x02, 0x03, 0x04, 0x10, 0x11, 0x12, 0x13, 0x18, 0x19, 0x1A, 0x1B, 0x1C] ∧
  ([.done, .invalid, .busy, .conflict, .late, .notready, .unknown] : List ResultCode).map ResultCode.number =
    [0, 1, 2, 3, 4, 5, 6]

/-- FETCH_WORD_COMPLETE (R23, R37, R41, R60, R62, R67, R68): the slot is consumed, which keeps the lap, the word joins the TX
FIFO of a run that still stands, the limit is checked, and a posting held on the slot is released. That the limit is checked for
a word that joins in STOPPING too is read from the manual (log 23), and the standing of the run is the model's own (log 27). An
access held on another ring or slot, or one that no fill releases, stays held (R41, R46). -/
def Obligations.FetchWordJoinsTheTxFifo : Prop :=
  ∀ (s : State) (b : FetchBurst) (a : Addr) (rest : List Addr), s.live = true → s.arb.use = .fetch b →
    b.reads = a :: rest →
    let n := txOf b.port
    let e := s.stream n
    let v := s.ring (.stream n)
    let stays := b.ringStands = true ∧ b.runStands = true ∧ (e.state = .pending ∨ e.state = .running ∨ e.state = .stopping)
    ∃ t, exec .fetchWordComplete s = .next t ∧
      t = { s with arb := { s.arb with use := if rest = [] then .free else .fetch { b with reads := rest } }
                   path := { s.path with phase := t.path.phase }
                   rings := t.rings, streams := t.streams, ports := t.ports, events := t.events } ∧
      (b.ringStands = false → t.path = s.path ∧ t.rings = s.rings) ∧
      (b.ringStands = true →
        (t.ring (.stream n)).consumer = (if v.consumer + 1 < s.slotCount (.stream n) then v.consumer + 1 else 0) ∧
        (t.ring (.stream n)).fill = v.fill - 1 ∧ (t.ring (.stream n)).producer = v.producer ∧
        (t.ring (.stream n)).lap = v.lap ∧ ∀ x, x ≠ .stream n → t.ring x = s.ring x) ∧
      (¬ stays → t.streams = s.streams ∧ t.ports = s.ports ∧ t.events = s.events) ∧
      (stays → t.port b.port = { s.port b.port with txFifo := (s.port b.port).txFifo ++ [Memory.word s.mem a] } ∧
        (∀ q, q ≠ b.port → t.port q = s.port q) ∧ (∀ m, m ≠ n → t.stream m = s.stream m) ∧
        (e.limit ≠ some (e.fetched + 1) → t.stream n = { e with fetched := e.fetched + 1 } ∧ t.events = s.events) ∧
        (e.limit = some (e.fetched + 1) → e.extension = none →
          t.stream n = { e with fetched := e.fetched + 1, limitReached := true } ∧ t.events = s.events) ∧
        (∀ f, e.limit = some (e.fetched + 1) → e.extension = some f →
          t.stream n = { e with fetched := e.fetched + 1, extension := none
                                limit := some (e.fetched + 1 + f * s.channels b.port) } ∧
          ∀ d, e.active = some d → t.events = raisedIf d.enables.lifecycle s.events
            ⟨.runExtended, BitVec.ofNat 8 n.val, BitVec.ofNat 16 f, BitVec.ofNat 16 (min 65535
              ((e.fetched + 1 + f * s.channels b.port - e.taken) / s.channels b.port)), 0, s.time.counter⟩)) ∧
      (∀ h d dat, b.ringStands = true → s.path.phase = .held h → h.ring = .stream n → h.slot = v.consumer → h.word = 0 →
        h.releasable = true → h.access.kind = .write dat → h.access.high = true → e.active = some d →
        v.producer = v.consumer → 0 < d.length → v.fill = d.length →
        t.path.phase = .forwarded h.access (.post (.stream n))) ∧
      (∀ h, s.path.phase = .held h → h.ring ≠ .stream n ∨ h.slot ≠ v.consumer ∨ h.releasable = false → t.path = s.path) ∧
      ((∀ h, s.path.phase ≠ .held h) → t.path = s.path)

/-- DEPOSIT_WORD_COMPLETE: the word is in memory, its slot is filled, and a read held on the slot is released; one held on
another ring or slot, or one that no fill releases, stays held (R39, R41, R46). A word of a burst whose ring is gone is dropped
(R35, R153, R186); that a dropped word does not reach memory is read from the manual (log 8). When the burst's last word
completes, the marks at the head of the FIFO are processed, one or several in a row: each leaves the FIFO, the record opens with
count 0 or closes, and the event carries the ring's producer and lap after that word and the mark's tag (R69, R71, R123 to
R125). Words of a burst whose run is over are not counted (R71; log 27). -/
def Obligations.DepositWordFillsTheRingAndMarksFollow : Prop :=
  ∀ (s : State) (b : DepositBurst) (a : Addr) (w : Word) (rest : List (Addr × Word)), s.live = true →
    s.arb.use = .deposit b → b.writes = (a, w) :: rest →
    let n := rxOf b.port
    let e := s.stream n
    let v := s.ring (.stream n)
    let q := s.port b.port
    let use := if rest = [] then .free else .deposit { b with writes := rest }
    let inRun := e.state = .running ∨ e.state = .stopping
    let counted : StreamEntry := if b.runStands then { e with deposited := e.deposited + 1
                                                              segWords := if e.segOpen then e.segWords + 1 else e.segWords } else e
    (b.ringStands = false → exec .depositWordComplete s = .next { s with arb := { s.arb with use := use } }) ∧
    (b.ringStands = true → ∃ t, exec .depositWordComplete s = .next t ∧
      t = { s with arb := { s.arb with use := use }, path := { s.path with phase := t.path.phase }, rings := t.rings
                   mem := Memory.store s.mem a true true w, streams := t.streams, ports := t.ports, events := t.events } ∧
      (t.ring (.stream n)).producer = (if v.producer + 1 < s.slotCount (.stream n) then v.producer + 1 else 0) ∧
      (t.ring (.stream n)).fill = v.fill + 1 ∧ (t.ring (.stream n)).consumer = v.consumer ∧
      (t.ring (.stream n)).lap = (if v.producer + 1 < s.slotCount (.stream n) then v.lap else v.lap.map (· + 1)) ∧
      (∀ x, x ≠ .stream n → t.ring x = s.ring x) ∧ (∀ m, m ≠ n → t.stream m = s.stream m) ∧
      (∀ p, p ≠ b.port → t.port p = s.port p) ∧
      (¬ inRun → t.stream n = e ∧ t.ports = s.ports ∧ t.events = s.events) ∧
      (inRun → rest ≠ [] ∨ (∀ k g f, q.rxFifo ≠ .mark k g :: f) →
        t.stream n = counted ∧ t.ports = s.ports ∧ t.events = s.events) ∧
      (∀ d, inRun → rest = [] → e.active = some d →
        let m := marksProcessed d.enables.segment n (t.ring (.stream n)) q.rxFifo e.segOpen counted.segWords s.events
        t.stream n = { counted with segOpen := m.segOpen, segWords := m.segWords } ∧
        t.port b.port = { q with rxFifo := m.fifo } ∧ t.events = m.events) ∧
      (∀ h d, s.path.phase = .held h → h.ring = .stream n → h.slot = v.producer → h.word = 0 → h.releasable = true →
        h.access.kind = .read → (h.access.high || h.access.low) = true → e.active = some d →
        v.consumer = v.producer → t.path.phase = .forwarded h.access (.consume (.stream n))) ∧
      (∀ h, s.path.phase = .held h → h.ring ≠ .stream n ∨ h.slot ≠ v.producer ∨ h.releasable = false → t.path = s.path) ∧
      ((∀ h, s.path.phase ≠ .held h) → t.path = s.path))

/-! ### Records, events and the interrupt line -/

/-- COMMAND_RECORD_READ: the eight words of the record are the current record and the unit is EXECUTING (R137, R138).
COMMAND_RESULT_WRITTEN: the result is in memory, the record is consumed, a held posting is released, and the unit waits or takes
the next record; an access held on another ring or slot, or one that no fill releases, stays held (R41, R46); after RESET PART
the cause is RESET PART and the identity block is asked for, merged with a request whose first burst is not yet granted and owed
after a later one (R38, R41, R140, R188). That a record is read whole at its row, and a result lands in one step, is the model's
reading (log 9). The low byte of word 7 selects the command, whatever the tag (R138): as a word of 16 bits it spells it, a form
the table does not give (log 20); and a row whose command the record does not select, or with no record EXECUTING, is not taken,
which is the model's choice (log 1). -/
def Obligations.CommandRecordIsReadAndItsResultConsumesIt : Prop :=
  (∀ (s : State) (slot : Nat), s.live = true → s.arb.use = .commandRead → s.cmd.state = .reading slot →
    let at' := fun i => Memory.word s.mem (BitVec.ofNat 19 (s.controlBase + 0x010 + 8 * slot + i))
    let r : CommandRecord :=
      ⟨slot, highByte (at' 7), lowByte (at' 7), #v[at' 0, at' 1, at' 2, at' 3, at' 4, at' 5]⟩
    exec .commandRecordRead s =
      .next { s with arb := { s.arb with use := .free }, cmd := { s.cmd with state := .executing r } }) ∧
  (∀ (s : State) (r : CommandRecord) (res : CommandResult) ws, s.live = true → s.arb.use = .commandResult ws →
    s.cmd.state = .writing r res → 1 ≤ (s.ring .command).fill → (s.ring .command).consumer < 16 →
    let v := s.ring .command
    ∃ t, exec .commandResultWritten s = .next t ∧
      t = { s with arb := { s.arb with use := .free }, path := { s.path with phase := t.path.phase }, rings := t.rings
                   mem := Memory.storeAll s.mem ws, cmd := t.cmd, start := t.start } ∧
      t.ring .command = { v with consumer := (v.consumer + 1) % 16, fill := v.fill - 1 } ∧
      (∀ x, x ≠ .command → t.ring x = s.ring x) ∧
      (v.fill = 1 ∨ s.start.part ≠ .operating → t.cmd = { s.cmd with state := .waiting }) ∧
      (2 ≤ v.fill → s.start.part = .operating → t.cmd = { s.cmd with state := .reading ((v.consumer + 1) % 16) }) ∧
      (r.code ≠ 0x1F → t.start = s.start) ∧
      (r.code = 0x1F → t.start = { s.start with cause := .resetPart, identity := t.start.identity } ∧
        (s.start.identity.phase = .idle → t.start.identity = { s.start.identity with phase := .firstDue }) ∧
        (s.start.identity.phase = .firstDue → t.start.identity = s.start.identity) ∧
        (s.start.identity.phase = .secondDue ∨ s.start.identity.phase = .finishing →
          t.start.identity = { s.start.identity with owed := true })) ∧
      (∀ h d, s.path.phase = .held h → h.ring = .command → h.slot = r.slot → r.slot = v.consumer → v.producer = v.consumer →
        v.fill = 16 → h.word = 7 → h.releasable = true → h.access.kind = .write d → h.access.high = true →
        h.access.low = true → lowByte d ≠ 0 → t.path.phase = .forwarded h.access (.post .command)) ∧
      (∀ h, s.path.phase = .held h → h.ring ≠ .command ∨ h.slot ≠ r.slot ∨ h.releasable = false → t.path = s.path) ∧
      ((∀ h, s.path.phase ≠ .held h) → t.path = s.path)) ∧
  (∀ tag code : Byte, decodeTableWord 16 (tag ++ code).toNat = some (commandFor code)) ∧
  (∀ (s : State) (c : Instr), c ∈ commandRows → (∀ r, s.cmd.state = .executing r → c ≠ commandFor r.code) →
    exec c s = .next s)

/-- EVENT_RECORD_WRITTEN and INT_PULSE_END: the record is in memory and filled at its last word, INT# goes low in either mode,
and a pulse ends at its own step (R40, R172, R173). That the record lands in one step is the model's reading (log 9), and that
INT_PULSE_END ends a pulse whatever time has elapsed is its choice (log 2): the row brings the microsecond of R173 with it. -/
def Obligations.EventRecordMovesTheInterruptLine : Prop :=
  (∀ (s : State) ws, s.live = true → s.arb.use = .eventRecord ws → (s.ring .event).producer < 32 →
    let v := s.ring .event
    ∃ t, exec .eventRecordWritten s = .next t ∧ t.int = false ∧
      t = { s with arb := { s.arb with use := .free }, rings := t.rings, mem := Memory.storeAll s.mem ws
                   events := { s.events with pulse := match s.events.line with
                     | .level => s.events.pulse
                     | .pulse => some 0 } } ∧
      t.ring .event = { v with producer := (v.producer + 1) % 32, fill := v.fill + 1, lap := (t.ring .event).lap } ∧
      (∀ x, x ≠ .event → t.ring x = s.ring x)) ∧
  (∀ s : State, s.live = true → exec .intPulseEnd s = .next { s with events := { s.events with pulse := none } }) ∧
  (∀ s : State, s.live = true → s.events.line = .level → (s.int = false ↔ 1 ≤ (s.ring .event).fill)) ∧
  (∀ s : State, s.live = true → s.events.line = .pulse → (s.int = false ↔ ∃ n, s.events.pulse = some n)) ∧
  (∀ s : State, s.live = false → s.int = true)

/-- A raised event joins a queue with fewer than 8 events and carries the dropped count, or is dropped and counted up to 65535
(R167, R168); a fault occurrence sets its flag, counts up to 65535, and raises FAULT only when the flag rises and the enable is
on, in any state but ABSENT (R36, R73). -/
def Obligations.EventsAndFaultsAreCounted : Prop :=
  (∀ (u : EventUnit) (e : Event), u.queue.length < 8 →
    u.raise e = { u with queue := u.queue ++ [{ event := e, carried := u.dropped }], dropped := 0 }) ∧
  (∀ (u : EventUnit) (e : Event), 8 ≤ u.queue.length → u.dropped ≤ 65535 →
    u.raise e = { u with dropped := min 65535 (u.dropped + 1) }) ∧
  (∀ (s : State) (n : Fin 8) (f : StreamFault) (index : Nat), (s.stream n).state = .absent → s.occur n f index = s) ∧
  (∀ (s : State) (n : Fin 8) (f : StreamFault) (index : Nat) (d : StreamDef), (s.stream n).state ≠ .absent →
    (s.stream n).active = some d → (s.stream n).faultCount f ≤ 65535 →
    let count := min 65535 ((s.stream n).faultCount f + 1)
    s.occur n f index = { s with streams := (s.occur n f index).streams, events := (s.occur n f index).events } ∧
    (∀ m, m ≠ n → (s.occur n f index).stream m = s.stream m) ∧
    (s.occur n f index).stream n = { s.stream n with flags := (s.stream n).flags.set f.index.val true
                                                     counts := (s.stream n).counts.set f.index.val count } ∧
    (s.occur n f index).events = raisedIf (d.enables.fault && !(s.stream n).flag f) s.events
      { kind := .fault, source := BitVec.ofNat 8 n.val, a := BitVec.ofNat 16 (f.index.val + 1), b := BitVec.ofNat 16 index
        c := BitVec.ofNat 16 count, tag := s.time.counter })

/-! ### Frames -/

/-- The frame boundary of a present port (R88, R90): frames seen, the frame position and a SLAVE's first sync; the other ports
and the rest of the part are left. When it comes (R86 to R88): a MASTER port makes it; a SLAVE port takes it from FSYn, high
after low, with PULSE at the bit after the high one and with SPAN at that bit. That the row carries FSYn as sampled, and that a
boundary comes on a whole frame only unless it is an early sync, not behind the frame position nor inside a slot whose word is
complete, and beyond bit L only after LATE_FRAME under EXACT, is the model's choice (log 10). The FSYn a MASTER port drives: PULSE
high in the last bit of a frame and in the extra bit before the first, SPAN in the 16 bits of channel 0; SCKn low in the first
half of a bit and high in the second (R86, R87). That these levels are functions of the bit and of the CLK cycle in it is the
model's choice (log 11). -/
def Obligations.BoundaryBeginsAFrame : Prop :=
  (∀ (s : State) (p : Fin 4) (d : PortDef) (fsy : List Bool) (position : Nat), s.live = true → (s.port p).active = some d →
    (s.port p).boundaryPosition d fsy = some position → s.boundaryCanCome p d position = true →
    ∃ t, exec (.frameBoundary p fsy) s = .next t ∧ PortStepFrame s t ∧ OtherPortsKept s t p ∧
      (t.port p).framesSeen = (s.port p).framesSeen + 1 ∧ (t.port p).framePos = some 0 ∧ (t.port p).slotsStarted = 0 ∧
      (t.port p).wordsDone = 0 ∧ (t.port p).active = some d ∧
      (t.port p).sync = (if (s.port p).sync = .unsynced then .synced else (s.port p).sync) ∧
      (t.arb.use = s.arb.use ∨ BurstOutlivesRun s.arb.use t.arb.use (txOf p))) ∧
  (∀ (s : State) (p : Fin 4) (fsy : List Bool), (s.port p).active = none → exec (.frameBoundary p fsy) s = .next s) ∧
  (∀ (s : State) (p : Fin 4) (d : PortDef) (fsy : List Bool), (s.port p).active = some d →
    ((s.port p).boundaryPosition d fsy = none ∨
      ∃ position, (s.port p).boundaryPosition d fsy = some position ∧ s.boundaryCanCome p d position = false) →
    exec (.frameBoundary p fsy) s = .next s) ∧
  (∀ (q : PortEntry) (d : PortDef) (fsy : List Bool),
    (q.sync = .running → q.boundaryPosition d fsy = some 0) ∧
    (q.sync = .unsynced → ∀ k, q.boundaryPosition d fsy = some k ↔ k = 0 ∧ ∃ i, SyncsAt fsy i) ∧
    (q.sync = .synced → d.shape = .pulse → ∀ k, q.boundaryPosition d fsy = some k ↔ ∃ i, SyncsAt fsy i ∧ k = i + 2) ∧
    (q.sync = .synced → d.shape = .span →
      ∀ k, q.boundaryPosition d fsy = some k ↔ ∃ i, SyncsAt (fsy.drop 1) i ∧ k = i + 2)) ∧
  (∀ (s : State) (p : Fin 4) (d : PortDef) (position : Nat),
    ((s.port p).sync ≠ .synced → (s.boundaryCanCome p d position = true ↔ FrameWhole s p)) ∧
    (∀ pos, (s.port p).sync = .synced → (s.port p).framePos = some pos →
      (s.boundaryCanCome p d position = true ↔ pos ≤ position ∧ 16 * (s.port p).wordsDone ≤ position ∧ (position < 16 * d.channels ∨
        (FrameWhole s p ∧ (position ≤ d.frameBits ∨ d.check = .early ∨ d.frameBits < pos)))))) ∧
  (∀ (s : State) (p : Fin 4) (bit clk : Nat),
    ((s.port p).active = none → s.fsy p bit = none ∧ s.sck p clk = none) ∧
    (∀ d, (s.port p).active = some d → d.role = .slave → s.fsy p bit = none ∧ s.sck p clk = none) ∧
    (∀ d, (s.port p).active = some d → d.role = .master →
      s.sck p clk = some (decide (d.divider ≤ clk)) ∧
      ((s.port p).framePos = none → s.fsy p bit = some true) ∧
      ((s.port p).framePos ≠ none → d.shape = .pulse → s.fsy p bit = some (decide (bit + 1 = d.frameBits))) ∧
      ((s.port p).framePos ≠ none → d.shape = .span → s.fsy p bit = some (decide (bit < 16)))))

/-- The transmit stream at a boundary: PENDING becomes RUNNING, STOPPING ends with its reason and throws its FIFO out, an
exhausted run completes, and any other entry is left; with the receive stream in no run, or STOPPING with no mark to process, the
events are exactly these (R55, R57, R64, R78). A burst under way goes on, of no run any more when the run ends (R68). -/
def Obligations.TransmitStreamAtABoundary : Prop :=
  ∀ (s : State) (p : Fin 4) (d : PortDef) (fsy : List Bool) (position : Nat), CleanBoundary s p d fsy position →
    let n := txOf p
    let e := s.stream n
    let fifo := (s.port p).txFifo
    let y := s.stream (rxOf p)
    let quiet := y.state = .absent ∨ y.state = .idle ∨ y.state = .armed ∨
      (y.state = .stopping ∧ ∀ k g f, (s.port p).rxFifo ≠ .mark k g :: f)
    let spent := e.state = .running ∧ e.limitReached = true ∧ fifo = [] ∧ ∀ b, s.arb.use = .fetch b → b.port ≠ p
    let ended : Word → Nat → Event := fun reason discarded =>
      ⟨.streamEnded, BitVec.ofNat 8 n.val, reason, wholeFrames e.sent d.channels, BitVec.ofNat 16 (min 65535 discarded),
        s.time.counter⟩
    ∃ t, exec (.frameBoundary p fsy) s = .next t ∧
      (spent ∨ e.state = .stopping → BurstOutlivesRun s.arb.use t.arb.use n) ∧
      (¬ spent → e.state ≠ .stopping → t.arb = s.arb) ∧
      (e.state = .pending → t.stream n = { e with state := .running } ∧ (t.port p).txFifo = fifo ∧
        ∀ ds, e.active = some ds → quiet → t.events = raisedIf ds.enables.lifecycle s.events
          ⟨.streamStarted, BitVec.ofNat 8 n.val, BitVec.ofNat 16 ds.runFrames,
            BitVec.ofNat 16 (s.ring (.stream n)).consumer, 0, s.time.counter⟩) ∧
      (e.state = .stopping →
        t.stream n = { e with state := .idle, stopping := none, starvation := none, discarded := e.discarded + fifo.length } ∧
        (t.port p).txFifo = [] ∧
        ∀ ds why, e.active = some ds → e.stopping = some why → quiet → t.events = raisedIf ds.enables.lifecycle s.events
          (ended (match why with
            | .stopped => 2
            | .starved => 4) (e.discarded + fifo.length))) ∧
      (spent → t.stream n = { e with state := .idle, stopping := none, starvation := none } ∧
        ∀ ds, e.active = some ds → quiet →
          t.events = raisedIf ds.enables.lifecycle s.events (ended 1 e.discarded)) ∧
      (¬ spent → e.state ≠ .pending → e.state ≠ .stopping → t.stream n = e ∧ (t.port p).txFifo = fifo ∧
        (quiet → t.events = s.events))

/-- Admission at a boundary that ends no detector block: not admitted with the gate closed or the limit reached; dropped with
one OVERRUN for want of room or under CLEARED; else C places reserved in channel order, and the limit checked: an extension is
applied with RUN_EXTENDED, or the limit is reached and, with gating on, the gate closes with an END mark behind the places (R55,
R60, R62, R73, R99, R101, R121). Then the marks at the head are processed (R69). A stream that is not PENDING or RUNNING has no
admission. The events come after those of the transmit stream, an order read from the manual (log 17). -/
def Obligations.ReceiveFrameIsAdmittedOrNot : Prop :=
  (∀ (s : State) (p : Fin 4) (d : PortDef) (ds : StreamDef) (fsy : List Bool) (position : Nat),
    CleanBoundary s p d fsy position → (s.stream (rxOf p)).active = some ds →
    ((s.stream (rxOf p)).state = .pending ∨ ((s.stream (rxOf p)).state = .running ∧
      ∀ g, (s.detector p).active = some g → (s.detector p).frames + 1 ≠ g.blockFrames)) →
    let n := rxOf p
    let e := s.stream n
    let fifo := (s.port p).rxFifo
    let C := d.channels
    let running : StreamEntry := { e with state := .running }
    let wanted := e.gateOpen = true ∧ e.limitReached = false
    let room := (fifo.filter RxEntry.isPlace).length + C ≤ 32
    let held := ds.resume = .cleared ∧ e.flag .overrun = true
    let gated := ∃ g, (s.detector p).active = some g ∧ g.gating = true
    let places := (List.range C).map RxEntry.reserved
    let begun := raisedIf (ds.enables.lifecycle && e.state == .pending) (txBoundaryEvents s p C)
      ⟨.streamStarted, BitVec.ofNat 8 n.val, BitVec.ofNat 16 ds.runFrames, BitVec.ofNat 16 (s.ring (.stream n)).producer, 0,
        s.time.counter⟩
    ∃ t, exec (.frameBoundary p fsy) s = .next t ∧ (e.state = .pending → t.detector p = s.detector p) ∧
      (¬ wanted → LeftWithMarksDone s t p ds ⟨running, fifo, false, begun⟩) ∧
      (wanted → ¬ room ∨ held → LeftWithMarksDone s t p ds
        ⟨{ running with flags := e.flags.set 1 true, counts := e.counts.set 1 (satInc (e.faultCount .overrun)) }, fifo, false,
          raisedIf (ds.enables.fault && !e.flag .overrun) begun
            ⟨.fault, BitVec.ofNat 8 n.val, 2, 0, BitVec.ofNat 16 (satInc (e.faultCount .overrun)), s.time.counter⟩⟩) ∧
      (wanted → room → ¬ held →
        (e.limit ≠ some (e.admitted + C) → LeftWithMarksDone s t p ds
          ⟨{ running with admitted := e.admitted + C }, fifo ++ places, true, begun⟩) ∧
        (e.limit = some (e.admitted + C) → e.extension = none → ¬ gated → LeftWithMarksDone s t p ds
          ⟨{ running with admitted := e.admitted + C, limitReached := true }, fifo ++ places, true, begun⟩) ∧
        (e.limit = some (e.admitted + C) → e.extension = none → gated → LeftWithMarksDone s t p ds
          ⟨{ running with admitted := e.admitted + C, limitReached := true, gateOpen := false },
            fifo ++ places ++ [.mark .segEnd s.time.counter], true, begun⟩) ∧
        (∀ f, e.limit = some (e.admitted + C) → e.extension = some f → LeftWithMarksDone s t p ds
          ⟨{ running with admitted := e.admitted + C, extension := none, limit := some (e.admitted + C + f * C) }, fifo ++ places,
            true, raisedIf ds.enables.lifecycle begun ⟨.runExtended, BitVec.ofNat 8 n.val, BitVec.ofNat 16 f,
              BitVec.ofNat 16 (min 65535 ((e.admitted + C + f * C - e.deposited) / C)), 0, s.time.counter⟩⟩))) ∧
  (∀ (s : State) (p : Fin 4) (d : PortDef) (fsy : List Bool) (position : Nat), CleanBoundary s p d fsy position →
    (s.stream (rxOf p)).state ≠ .pending → (s.stream (rxOf p)).state ≠ .running →
    let e := s.stream (rxOf p)
    let u := txBoundaryEvents s p d.channels
    ∃ t, exec (.frameBoundary p fsy) s = .next t ∧ t.detector p = s.detector p ∧ (t.port p).admitted = false ∧
      (e.state ≠ .stopping → t.stream (rxOf p) = e ∧ (t.port p).rxFifo = (s.port p).rxFifo ∧ t.events = u) ∧
      (∀ ds, e.state = .stopping → e.active = some ds → LeftWithMarksDone s t p ds ⟨e, (s.port p).rxFifo, false, u⟩))

/-- The state table of a Signal Detector (R115), row by row. -/
def Obligations.DetectorFollowsItsStateTable : Prop :=
  ∀ (d : DetectorDef) (count peak : Nat), 1 ≤ d.onTime → 1 ≤ d.offTime →
    let signal := d.onThreshold ≤ peak
    let silence := peak < d.offThreshold
    (signal → 1 < d.onTime → d.next .quiet count peak = (.onset, 1)) ∧
    (signal → d.onTime = 1 → d.next .quiet count peak = (.present, 0)) ∧
    (¬ signal → d.next .quiet count peak = (.quiet, 0)) ∧
    (signal → count + 1 < d.onTime → d.next .onset count peak = (.onset, count + 1)) ∧
    (signal → count + 1 = d.onTime → d.next .onset count peak = (.present, 0)) ∧
    (¬ signal → d.next .onset count peak = (.quiet, 0)) ∧
    (silence → 1 < d.offTime → d.next .present count peak = (.fading, 1)) ∧
    (silence → d.offTime = 1 → d.next .present count peak = (.quiet, 0)) ∧
    (¬ silence → d.next .present count peak = (.present, 0)) ∧
    (silence → count + 1 < d.offTime → d.next .fading count peak = (.fading, count + 1)) ∧
    (silence → count + 1 = d.offTime → d.next .fading count peak = (.quiet, 0)) ∧
    (¬ silence → d.next .fading count peak = (.present, 0))

/-- A frame end of a RUNNING receive stream: the frame is counted, and the N-th ends the block. The frame that begins there is
offered by the gate as it stood before (R99, R114); then the peak is stored, the state moves with its event, the gate opens with
a START mark or closes with one END mark behind the places of the frame just admitted, and the next block begins (R102, R114,
R116, R119 to R122). Then the marks at the head are processed: a START mark put into an empty FIFO raises SEGMENT_START at once
(R69, R123, R124). The events come after those of the transmit stream, an order read from the manual (log 17). -/
def Obligations.BlockEndMovesDetectorAndGate : Prop :=
  ∀ (s : State) (p : Fin 4) (d : PortDef) (g : DetectorDef) (ds : StreamDef) (fsy : List Bool) (position : Nat),
    CleanBoundary s p d fsy position → (s.detector p).active = some g → (s.stream (rxOf p)).active = some ds →
    (s.stream (rxOf p)).state = .running →
    let n := rxOf p
    let e := s.stream n
    let v := s.ring (.stream n)
    let x := s.detector p
    let fifo := (s.port p).rxFifo
    let C := d.channels
    let tag := s.time.counter
    let base := txBoundaryEvents s p C
    let offered := frameOffered ds C n g.gating tag ⟨e, fifo, false, base⟩
    let r := g.next x.state x.count x.peak
    let confirmed := (x.state = .quiet ∨ x.state = .onset) ∧ r.1 = .present
    let gone := (x.state = .present ∨ x.state = .fading) ∧ r.1 = .quiet
    let opens := g.gating = true ∧ confirmed ∧ offered.entry.gateOpen = false ∧ offered.entry.limitReached = false ∧
      (offered.fifo.filter RxEntry.isMark).length ≤ 6
    let closes := g.gating = true ∧ gone ∧ offered.entry.gateOpen = true
    let signalled := signalRaised ds.enables n x.state r.1 x.peak tag
    ∃ t, exec (.frameBoundary p fsy) s = .next t ∧
      ((t.port p).admitted = true ↔ e.gateOpen = true ∧ e.limitReached = false ∧ (fifo.filter RxEntry.isPlace).length + C ≤ 32 ∧
        ¬ (ds.resume = .cleared ∧ e.flag .overrun = true)) ∧
      (t.stream n).admitted = (if (t.port p).admitted then e.admitted + C else e.admitted) ∧
      (x.frames + 1 ≠ g.blockFrames → t.detector p = { x with frames := x.frames + 1 } ∧
        LeftWithMarksDone s t p ds offered) ∧
      (x.frames + 1 = g.blockFrames →
        t.detector p = { x with state := r.1, count := r.2, frames := 0, peak := 0, last := x.peak } ∧
        (opens → LeftWithMarksDone s t p ds { offered with entry := { offered.entry with gateOpen := true }
                                                           fifo := offered.fifo ++ [.mark .segStart tag]
                                                           events := signalled offered.events }) ∧
        (closes → LeftWithMarksDone s t p ds { offered with entry := { offered.entry with gateOpen := false }
                                                            fifo := offered.fifo ++ [.mark .segEnd tag]
                                                            events := signalled offered.events }) ∧
        (¬ opens → ¬ closes → LeftWithMarksDone s t p ds { offered with events := signalled offered.events }) ∧
        (opens → fifo = [] → (∀ b, s.arb.use = .deposit b → b.port ≠ p) → (t.port p).rxFifo = [] ∧
          (t.stream n).gateOpen = true ∧ (t.stream n).segOpen = true ∧ (t.stream n).segWords = 0 ∧
          t.events = raisedIf ds.enables.segment
            (raisedIf ds.enables.signal base ⟨.signalPresent, BitVec.ofNat 8 n.val, BitVec.ofNat 16 x.peak, 0, 0, tag⟩)
            ⟨.segmentStart, BitVec.ofNat 8 n.val, BitVec.ofNat 16 v.producer, v.lap.getD 0, 0, tag⟩) ∧
        (gone → g.gating = true → e.gateOpen = true → fifo = [] → (t.port p).admitted = false →
          (∀ b, s.arb.use = .deposit b → b.port ≠ p) → (t.port p).rxFifo = [] ∧ (t.stream n).gateOpen = false ∧
          (t.stream n).segOpen = false ∧ (t.stream n).segWords = e.segWords))

/-- An early sync of a SYNCED SLAVE port (R104 to R106): FRAME is counted on each present stream of the port, an admitted frame
is padded with the idle word, and a TAKING transmit stream discards up to channel 0, or waits if its FIFO runs out; a WAITING
one is left. Then the boundary is that an on-time sync makes of the frame so repaired, a clean one: a run that goes on has its
new frame behind the padding, a STOPPING receive stream keeps the padding to drain (R58), a discard that takes the run's last
word completes the run (R64), and a STOPPING transmit stream ends with its FIFO thrown out (R57). That no UNDERRUN is counted at
the sync itself, and the order of the events, are the model's reading (logs 12 and 17). -/
def Obligations.EarlySyncPadsAndRealigns : Prop :=
  ∀ (s : State) (p : Fin 4) (d : PortDef) (fsy : List Bool) (pos position : Nat), s.live = true →
    (s.port p).active = some d → (s.port p).sync = .synced → (s.port p).framePos = some pos →
    (s.port p).boundaryPosition d fsy = some position → pos ≤ position → 16 * (s.port p).wordsDone ≤ position →
    position < 16 * d.channels →
    let q := s.port p
    let x := s.stream (txOf p)
    let y := s.stream (rxOf p)
    let C := d.channels
    let lacking := C - x.k
    let cut := q.tx = .taking ∧ x.k ≠ 0 ∧ x.k < C
    let noFetch := ∀ b, s.arb.use = .fetch b → b.port ≠ p
    let taking := x.state = .running ∧ cut ∧ ¬ (x.limitReached = true ∧ q.txFifo.length ≤ lacking ∧ noFetch)
    let thrown := x.discarded + min lacking q.txFifo.length
    let padded := paddedWith d.idle q.rxFifo
    let noDetector := (s.detector p).active = none
    let noMark := ∀ k g f, q.rxFifo ≠ .mark k g :: f
    ∃ t, exec (.frameBoundary p fsy) s = .next t ∧ PortStepFrame s t ∧ OtherPortsKept s t p ∧
      (t.port p).framePos = some 0 ∧ (t.port p).framesSeen = q.framesSeen + 1 ∧
      (∀ m, m = txOf p ∨ m = rxOf p → (s.stream m).state ≠ .absent →
        (t.stream m).flag .frame = true ∧ (t.stream m).faultCount .frame = satInc ((s.stream m).faultCount .frame)) ∧
      (∀ onTime, (s.port p).boundaryPosition d onTime = some d.frameBits → 16 * C ≤ d.frameBits →
        let repaired := earlySyncRepaired (frameReported s p (position / 16)) p d
        CleanBoundary repaired p d onTime d.frameBits ∧ exec (.frameBoundary p onTime) repaired = .next t) ∧
      (q.admitted = true → y.state = .running → noMark → noDetector →
        (y.gateOpen = false ∨ y.limitReached = true → (t.port p).admitted = false ∧ (t.port p).rxFifo = padded) ∧
        (∀ ds, y.active = some ds → y.gateOpen = true → y.limitReached = false →
          (q.rxFifo.filter RxEntry.isPlace).length + C ≤ 32 → ¬ (ds.resume = .cleared ∧ y.flag .overrun = true) →
          (t.port p).admitted = true ∧ (t.port p).rxFifo = padded ++ (List.range C).map RxEntry.reserved ∧
          (t.stream (rxOf p)).admitted = y.admitted + C)) ∧
      (q.admitted = true → y.state = .stopping → noMark → (t.port p).admitted = false ∧ (t.port p).rxFifo = padded ∧
        (t.stream (rxOf p)).state = .stopping) ∧
      (taking → lacking ≤ q.txFifo.length →
        (t.stream (txOf p)).state = .running ∧ (t.stream (txOf p)).k = 0 ∧ (t.port p).tx = .taking ∧
        (t.port p).txFifo = q.txFifo.drop lacking ∧ (t.stream (txOf p)).taken = x.taken + lacking ∧
        (t.stream (txOf p)).discarded = x.discarded + lacking ∧ (t.stream (txOf p)).sent = x.sent) ∧
      (taking → q.txFifo.length < lacking →
        (t.stream (txOf p)).state = .running ∧ (t.stream (txOf p)).k = x.k + q.txFifo.length ∧ (t.port p).tx = .waiting ∧
        (t.port p).txFifo = [] ∧ (t.stream (txOf p)).taken = x.taken + q.txFifo.length ∧
        (t.stream (txOf p)).discarded = x.discarded + q.txFifo.length ∧ (t.stream (txOf p)).starvation = some 0 ∧
        (t.stream (txOf p)).faultCount .underrun = x.faultCount .underrun) ∧
      (x.state = .running → cut → x.limitReached = true → q.txFifo.length ≤ lacking → noFetch →
        (t.stream (txOf p)).state = .idle ∧ (t.stream (txOf p)).starvation = none ∧ (t.port p).txFifo = [] ∧
        (t.stream (txOf p)).taken = x.taken + q.txFifo.length ∧ (t.stream (txOf p)).discarded = thrown ∧
        (t.stream (txOf p)).sent = x.sent ∧
        ∀ ds, x.active = some ds → y.state = .absent ∨ y.state = .idle ∨ y.state = .armed →
          t.events = raisedIf ds.enables.lifecycle (frameReported s p (position / 16)).events
            ⟨.streamEnded, BitVec.ofNat 8 (txOf p).val, 1, wholeFrames x.sent C, BitVec.ofNat 16 (min 65535 thrown),
              s.time.counter⟩) ∧
      (x.state = .stopping → (t.stream (txOf p)).state = .idle ∧ (t.port p).txFifo = [] ∧
        (t.stream (txOf p)).taken = x.taken ∧ (t.stream (txOf p)).discarded = x.discarded + q.txFifo.length) ∧
      (x.state = .running → q.tx = .waiting → x.limitReached = false →
        (t.stream (txOf p)).k = x.k ∧ (t.port p).tx = .waiting ∧ (t.port p).txFifo = q.txFifo)

/-- What a sync and a late frame report, for each stream of the port that is not ABSENT and whatever its run (R104, R107): a
short sync under EXACT is FRAME with index C and then the boundary an on-time sync makes; a late frame under EXACT is FRAME with
index C and nothing else, once, when bit L passes; under EARLY neither reports. With the transmit stream IDLE and the receive
stream ABSENT the entry and the event are spelled out, those of an early sync too, with the channel it cuts. The order of the
two FRAME events is read from the manual (log 17), and that a row comes on a whole frame only is the model's choice (log 10). -/
def Obligations.SyncsAndLateFramesAreReported : Prop :=
  (∀ (s : State) (p : Fin 4) (d : PortDef) (pos : Nat), s.live = true → (s.port p).active = some d →
    (s.port p).sync = .synced → (s.port p).framePos = some pos → FrameWhole s p → 16 * d.channels ≤ d.frameBits →
    let counted : State → Prop := fun t => ∀ m, m = txOf p ∨ m = rxOf p → (s.stream m).state ≠ .absent →
      (t.stream m).flag .frame = true ∧ (t.stream m).faultCount .frame = satInc ((s.stream m).faultCount .frame)
    (∀ fsy onTime position, (s.port p).boundaryPosition d fsy = some position →
      (s.port p).boundaryPosition d onTime = some d.frameBits → pos ≤ position →
      16 * (s.port p).wordsDone ≤ position → 16 * d.channels ≤ position → position < d.frameBits →
      (d.check = .exact → CleanBoundary (frameReported s p d.channels) p d onTime d.frameBits ∧
        exec (.frameBoundary p fsy) s = exec (.frameBoundary p onTime) (frameReported s p d.channels) ∧
        ∃ t, exec (.frameBoundary p fsy) s = .next t ∧ counted t ∧ (t.port p).framePos = some 0) ∧
      (d.check = .early → exec (.frameBoundary p fsy) s = exec (.frameBoundary p onTime) s)) ∧
    (pos ≤ d.frameBits →
      let passed := s.setPort p { s.port p with framePos := some (d.frameBits + 1) }
      (d.check = .exact → exec (.lateFrame p) s = .next (frameReported passed p d.channels) ∧
        counted (frameReported passed p d.channels)) ∧
      (d.check = .early → exec (.lateFrame p) s = .next passed)) ∧
    (d.frameBits < pos → exec (.lateFrame p) s = .next s)) ∧
  (∀ (s : State) (p : Fin 4) (d : PortDef) (ds : StreamDef) (pos : Nat), s.live = true → (s.port p).active = some d →
    (s.port p).sync = .synced → (s.port p).framePos = some pos → (s.stream (txOf p)).active = some ds →
    (s.stream (txOf p)).state = .idle → (s.stream (rxOf p)).state = .absent → (s.port p).admitted = false →
    16 * d.channels ≤ d.frameBits →
    let e := s.stream (txOf p)
    let fault : Nat → EventUnit := fun index => raisedIf (ds.enables.fault && !e.flag .frame) s.events
      ⟨.fault, BitVec.ofNat 8 (txOf p).val, 3, BitVec.ofNat 16 index, BitVec.ofNat 16 (satInc (e.faultCount .frame)),
        s.time.counter⟩
    let reported : StreamEntry := { e with flags := e.flags.set 2 true, counts := e.counts.set 2 (satInc (e.faultCount .frame)) }
    (∀ fsy position, (s.port p).boundaryPosition d fsy = some position → pos ≤ position →
      16 * (s.port p).wordsDone ≤ position → position ≤ d.frameBits →
      ∃ t, exec (.frameBoundary p fsy) s = .next t ∧ (t.port p).framePos = some 0 ∧
        (position < 16 * d.channels → t.stream (txOf p) = reported ∧ t.events = fault (position / 16)) ∧
        (16 * d.channels ≤ position → position < d.frameBits → d.check = .exact →
          t.stream (txOf p) = reported ∧ t.events = fault d.channels) ∧
        (16 * d.channels ≤ position → position = d.frameBits ∨ d.check = .early →
          t.stream (txOf p) = e ∧ t.events = s.events)) ∧
    (pos ≤ d.frameBits → ∃ t, exec (.lateFrame p) s = .next t ∧
      t = { s with ports := t.ports, streams := t.streams, events := t.events } ∧
      t.port p = { s.port p with framePos := some (d.frameBits + 1) } ∧ (∀ m, m ≠ txOf p → t.stream m = s.stream m) ∧
      (d.check = .exact → t.stream (txOf p) = reported ∧ t.events = fault d.channels) ∧
      (d.check = .early → t.stream (txOf p) = e ∧ t.events = s.events)))

/-! ### Channel slots and channel words -/

/-- The next channel slot carries the idle word without a run and when the run is exhausted, and else the taken word, shifted by
the attenuation or muted; nothing but the port and the stream changes; without a slot left nothing starts (R51, R92 to R94). On
SDOn the slot's word goes most significant bit first, to the end of its last bit, in whose middle the channel word of SDIn is
complete; low outside the slots, and in the first half of bit 0 of channel 0 on a SLAVE port with SPAN (R89). That half bits are
counted from the start of the slot begun last, and so run on into the gap, is the model's choice (log 11), and so is that a row
begins the next slot of the frame, at its bit 16c (log 10). -/
def Obligations.ChannelSlotCarriesItsWord : Prop :=
  (∀ (s : State) (p : Fin 4) (d : PortDef) (pos : Nat), s.live = true → (s.port p).active = some d →
    (s.port p).framePos = some pos → (s.port p).slotsStarted < d.channels →
    let n := txOf p
    let e := s.stream n
    let c := (s.port p).slotsStarted
    let q : PortEntry := { s.port p with slotsStarted := c + 1, framePos := some (max pos (16 * c)) }
    let inRun := e.state = .running ∨ e.state = .stopping
    (¬ inRun → exec (.channelSlotStart p) s = .next (s.setPort p { q with slotWord := d.idle })) ∧
    (inRun → e.limitReached = true → q.txFifo = [] → (∀ b, s.arb.use = .fetch b → b.port ≠ p) →
      exec (.channelSlotStart p) s = .next (s.setPort p { q with slotWord := d.idle })) ∧
    (∀ w rest, inRun → q.tx = .taking → q.txFifo = w :: rest →
      let v := if e.mute then d.idle else w.sshiftRight e.attenuation
      exec (.channelSlotStart p) s = .next ((s.setStream n
        { e with taken := e.taken + 1, sent := e.sent + 1, k := if e.k + 1 < d.channels then e.k + 1 else 0
                 replay := e.replay.setIfInBounds c v }).setPort p { q with txFifo := rest, slotWord := v }))) ∧
  (∀ (s : State) (p : Fin 4), (s.port p).active = none ∨ (s.port p).framePos = none ∨
    s.channels p ≤ (s.port p).slotsStarted → exec (.channelSlotStart p) s = .next s) ∧
  (∀ (s : State) (p : Fin 4) (half : Nat), (s.port p).active = none ∨ (s.port p).framePos = none → s.sdoHalf p half = false) ∧
  (∀ (s : State) (p : Fin 4) (d : PortDef) (pos half : Nat), (s.port p).active = some d → (s.port p).framePos = some pos →
    (s.sdoHalf p half = true ↔ 1 ≤ (s.port p).slotsStarted ∧ pos < 16 * d.channels ∧
      (s.port p).slotWord.getMsbD (half / 2) = true ∧
      ¬ (d.role = .slave ∧ d.shape = .span ∧ (s.port p).slotsStarted = 1 ∧ half = 0))) ∧
  (∀ (s : State) (p : Fin 4) (sdi : Vector Bool 16), ∃ t, exec (.rxChannelWordComplete p sdi) s = .next t ∧
    ∀ q half, t.sdoHalf q half = s.sdoHalf q half)

/-- Underrun (R95 to R97): the episode begins with the replay value, WAITING and one UNDERRUN; a waiting slot is an underrun
slot or a misaligned one; and at the slot with c = k, with enough words and nothing held back, the head word is taken.
STARVATION_EXPIRY: a RUNNING transmit stream whose timer runs becomes STOPPING with reason STARVED (R76, R77); otherwise the
expiry does not happen. That the row is taken whatever the running timer has reached is the model's choice (log 2): the row
brings the rest of the limit of R77 with it. -/
def Obligations.UnderrunWaitsAndEndsByResumingOrStarving : Prop :=
  (∀ (s : State) (p : Fin 4) (d : PortDef) (ds : StreamDef) (pos : Nat), s.live = true → (s.port p).active = some d →
    (s.port p).framePos = some pos → (s.port p).slotsStarted < d.channels → (s.stream (txOf p)).active = some ds →
    ((s.stream (txOf p)).state = .running ∨ (s.stream (txOf p)).state = .stopping) →
    let n := txOf p
    let e := s.stream n
    let c := (s.port p).slotsStarted
    let q : PortEntry := { s.port p with slotsStarted := c + 1, framePos := some (max pos (16 * c)), slotWord := e.replay.getD c 0 }
    let spent := e.limitReached = true ∧ q.txFifo = [] ∧ ∀ b, s.arb.use = .fetch b → b.port ≠ p
    let enough := min d.channels (match e.limit with
      | none => d.channels
      | some l => l - e.taken) ≤ q.txFifo.length
    let held := ds.resume = .cleared ∧ e.flag .underrun = true
    (¬ spent → q.tx = .taking → q.txFifo = [] →
      exec (.channelSlotStart p) s = .next (((s.setPort p { q with tx := .waiting }).setStream n
        { e with starvation := if e.state = .running then some 0 else e.starvation }).occur n .underrun c)) ∧
    (¬ spent → q.tx = .waiting → ¬ enough ∨ held →
      exec (.channelSlotStart p) s = .next ((s.setPort p q).occur n .underrun c)) ∧
    (¬ spent → q.tx = .waiting → enough → ¬ held → c ≠ e.k →
      exec (.channelSlotStart p) s = .next (s.setPort p q)) ∧
    (∀ w rest, q.tx = .waiting → enough → ¬ held → c = e.k → q.txFifo = w :: rest →
      let v := if e.mute then d.idle else w.sshiftRight e.attenuation
      exec (.channelSlotStart p) s = .next ((s.setStream n
        { e with taken := e.taken + 1, sent := e.sent + 1, k := if e.k + 1 < d.channels then e.k + 1 else 0
                 starvation := none, replay := e.replay.setIfInBounds c v }).setPort p
        { q with tx := .taking, txFifo := rest, slotWord := v }))) ∧
  (∀ (s : State) (p : Fin 4),
    let e := s.stream (txOf p)
    (∀ n, s.live = true → e.state = .running → e.starvation = some n →
      exec (.starvationExpiry p) s =
        .next (s.setStream (txOf p) { e with state := .stopping, stopping := some .starved, starvation := none })) ∧
    (e.state ≠ .running ∨ e.starvation = none → exec (.starvationExpiry p) s = .next s))

/-- The next channel word of a frame, its sixteen bits of SDIn most significant first, complete in the last of them (R89): in an
admitted frame it becomes a SAMPLE in the oldest reserved place, and with the last channel the frame is no longer admitted; the
detector of a RUNNING stream takes its magnitude if the mask has the channel (R100, R103, R113). -/
def Obligations.ChannelWordFillsItsPlace : Prop :=
  (∀ (s : State) (p : Fin 4) (d : PortDef) (pos : Nat) (sdi : Vector Bool 16) (w : Word), s.live = true →
    (s.port p).active = some d → (s.port p).framePos = some pos → (s.port p).wordsDone < d.channels →
    (∀ j, (h : j < 16) → w.getMsbD j = sdi[j]) →
    let q := s.port p
    let c := q.wordsDone
    let x := s.detector p
    ∃ t, exec (.rxChannelWordComplete p sdi) s = .next t ∧ t = { s with ports := t.ports, detectors := t.detectors } ∧
      OtherPortsKept s t p ∧
      t.port p = { q with wordsDone := c + 1, framePos := some (max pos (16 * c + 15)), rxFifo := (t.port p).rxFifo
                          admitted := q.admitted && decide (c + 1 < d.channels) } ∧
      (q.admitted = false → (t.port p).rxFifo = q.rxFifo) ∧
      (∀ f1 c' f2, q.admitted = true → q.rxFifo = f1 ++ .reserved c' :: f2 → (∀ i, RxEntry.reserved i ∉ f1) →
        (t.port p).rxFifo = f1 ++ .sample w c' :: f2) ∧
      ((s.stream (rxOf p)).state ≠ .running ∨ x.active = none → t.detector p = x) ∧
      (∀ g, (s.stream (rxOf p)).state = .running → x.active = some g →
        let size := if w = 0x8000 then 32767 else w.toInt.natAbs
        t.detector p = { x with peak := if g.mask.getLsbD c then max x.peak size else x.peak })) ∧
  (∀ (s : State) (p : Fin 4) (sdi : Vector Bool 16), (s.port p).active = none ∨ (s.port p).framePos = none ∨
    s.channels p ≤ (s.port p).wordsDone → exec (.rxChannelWordComplete p sdi) s = .next s)

/-- A receive stream becomes IDLE when its FIFO is drained: from STOPPING with reason STOPPED, from RUNNING with its limit reached
with reason COMPLETE; otherwise nothing ends (R58, R65, R78). -/
def Obligations.ReceiveRunEndsWhenDrained : Prop :=
  ∀ (s : State) (p : Fin 4), s.live = true →
    let n := rxOf p
    let e := s.stream n
    let drained := (s.port p).rxFifo = [] ∧ ∀ b, s.arb.use = .deposit b → b.port ≠ p
    let ended : Word → EventUnit → Enables → EventUnit := fun reason u en => raisedIf en.lifecycle u
      ⟨.streamEnded, BitVec.ofNat 8 n.val, reason, wholeFrames e.deposited (s.channels p),
        BitVec.ofNat 16 (min 65535 e.discarded), s.time.counter⟩
    let idle : StreamEntry := { e with state := .idle, stopping := none, starvation := none }
    (∀ ds, drained → e.active = some ds → e.state = .stopping →
      exec (.rxStoppingDrained p) s = .next { s.setStream n idle with events := ended 2 s.events ds.enables }) ∧
    (∀ ds, drained → e.active = some ds → e.state = .running → e.limitReached = true →
      exec (.rxRunComplete p) s = .next { s.setStream n idle with events := ended 1 s.events ds.enables }) ∧
    (¬ drained ∨ e.state ≠ .stopping → exec (.rxStoppingDrained p) s = .next s) ∧
    (¬ drained ∨ e.state ≠ .running ∨ e.limitReached = false → exec (.rxRunComplete p) s = .next s)

/-! ### TRIG and the time tag -/

/-- TRIG_EDGE: every ARMED stream becomes PENDING and one TRIGGER carries a bit for each; with none ARMED, and in RESET and
SAFE, nothing happens (R54). -/
def Obligations.TriggerReleasesArmedStreams : Prop :=
  (∀ s : State, s.live = true → (∃ n, (s.stream n).state = .armed) →
    ∃ t bits, exec .trigEdge s = .next t ∧ t = { s with streams := t.streams, events := t.events } ∧
      (∀ n, t.stream n = if (s.stream n).state = .armed then { s.stream n with state := .pending } else s.stream n) ∧
      t.events = s.events.raise ⟨.trigger, 0xFF, bits, 0, 0, s.time.counter⟩ ∧
      (∀ n : Fin 8, bits.getLsbD n.val = true ↔ (s.stream n).state = .armed) ∧ bits.toNat < 256) ∧
  (∀ s : State, s.live = false ∨ (∀ n, (s.stream n).state ≠ .armed) → exec .trigEdge s = .next s)

/-- The counter increases by 1, wrapping, at the steps of its source and at no step of the other (R177). -/
def Obligations.TimeTagCountsByItsSource : Prop :=
  ∀ s : State, s.live = true →
    let counted : State := { s with time := { s.time with counter := s.time.counter + 1 } }
    (s.time.source = .external → exec .tagclkEdge s = .next counted ∧ exec .internalTimeTagIncrease s = .next s) ∧
    (s.time.source = .internal → exec .tagclkEdge s = .next s ∧ exec .internalTimeTagIncrease s = .next counted)

/-! ### Commands -/

/-- A command that names a stream above 7, or another object above 3, returns INVALID with detail 0; one that needs a present
stream returns NOTREADY with the number of an ABSENT one. Nothing else changes (R142, R143). -/
def Obligations.NumbersAreCheckedFirst : Prop :=
  (∀ (s : State) (r : CommandRecord) (i : Instr) (code : Byte), (i, code) ∈ ([(.defineStream, 0x03), (.start, 0x08),
      (.stop, 0x09), (.abort, 0x0A), (.extend, 0x0B), (.setLevel, 0x0C), (.clearFault, 0x0D), (.queryStream, 0x10),
      (.queryFaults, 0x11)] : List (Instr × Byte)) →
    Executing s r code → 8 ≤ (lowByte (r.p 0)).toNat → exec i s = .next (answered s r .invalid 0 none)) ∧
  (∀ (s : State) (r : CommandRecord) (i : Instr) (code : Byte), (i, code) ∈ ([(.definePort, 0x02), (.defineDetector, 0x04),
      (.defineWatch, 0x05), (.queryPort, 0x12)] : List (Instr × Byte)) →
    Executing s r code → 4 ≤ (lowByte (r.p 0)).toNat → exec i s = .next (answered s r .invalid 0 none)) ∧
  (∀ (s : State) (r : CommandRecord) (i : Instr) (code : Byte) (n : Fin 8), (i, code) ∈ ([(.start, 0x08), (.stop, 0x09),
      (.abort, 0x0A), (.extend, 0x0B), (.clearFault, 0x0D)] : List (Instr × Byte)) →
    Executing s r code → (lowByte (r.p 0)).toNat = n.val → (s.stream n).state = .absent →
    exec i s = .next (answered s r .notready n.val none))

/-- DEFINE PORT and DEFINE STREAM: the staged copy is set from the record or made absent; the first word out of range is the
detail of INVALID, and nothing else changes (R144 to R146). -/
def Obligations.DefinePortAndStreamStageTheirFields : Prop :=
  NumberChecked .definePort 0x02 4 ∧ NumberChecked .defineStream 0x03 8 ∧
  (∀ (s : State) (r : CommandRecord) (p : Fin 4), Executing s r 0x02 → (lowByte (r.p 0)).toNat = p.val →
    let staged : Option PortDef → State := fun d => answered { s with cmd := { s.cmd with staged :=
      { s.cmd.staged with ports := s.cmd.staged.ports.set p.val d } } } r .done 0 none
    let C := ((r.p 1).extractLsb' 0 4).toNat
    let L := (r.p 2).toNat
    let D := (r.p 3).toNat
    ((r.p 0).getLsbD 15 = false → exec .definePort s = .next (staged none)) ∧
    ((r.p 0).getLsbD 15 = true →
      (C < 1 ∨ 8 < C → exec .definePort s = .next (answered s r .invalid 1 none)) ∧
      (1 ≤ C → C ≤ 8 → L < 16 * C ∨ 256 < L → exec .definePort s = .next (answered s r .invalid 2 none)) ∧
      (1 ≤ C → C ≤ 8 → 16 * C ≤ L → L ≤ 256 → D < 1 ∨ 256 < D →
        exec .definePort s = .next (answered s r .invalid 3 none)) ∧
      (1 ≤ C → C ≤ 8 → 16 * C ≤ L → L ≤ 256 → 1 ≤ D → D ≤ 256 →
        exec .definePort s = .next (staged (some
          { role := if (r.p 1).getLsbD 8 then .slave else .master, channels := C, frameBits := L, divider := D
            shape := if (r.p 1).getLsbD 9 then .span else .pulse
            check := if (r.p 1).getLsbD 10 then .exact else .early, idle := r.p 4 }))))) ∧
  (∀ (s : State) (r : CommandRecord) (n : Fin 8), Executing s r 0x03 → (lowByte (r.p 0)).toNat = n.val →
    let staged : Option StreamDef → State := fun d => answered { s with cmd := { s.cmd with staged :=
      { s.cmd.staged with streams := s.cmd.staged.streams.set n.val d } } } r .done 0 none
    let top := (lowByte (r.p 2)).toNat
    let burst := (highByte (r.p 2)).toNat
    let length := (r.p 3).toNat
    let hold := (lowByte (r.p 4)).toNat
    let good2 := top ≤ 7 ∧ burst ∈ [0, 1, 2, 4, 8, 16]
    let good3 := 16 ≤ length ∧ length ≤ 32768
    ((r.p 0).getLsbD 15 = false → exec .defineStream s = .next (staged none)) ∧
    ((r.p 0).getLsbD 15 = true →
      (¬ good2 → exec .defineStream s = .next (answered s r .invalid 2 none)) ∧
      (good2 → ¬ good3 → exec .defineStream s = .next (answered s r .invalid 3 none)) ∧
      (good2 → good3 → 250 < hold → exec .defineStream s = .next (answered s r .invalid 4 none)) ∧
      (good2 → good3 → hold ≤ 250 → exec .defineStream s = .next (staged (some
        { base := BitVec.ofNat 19 ((r.p 1).toNat + 65536 * top), length := length, burstCode := burst, holdLimit := hold
          resume := if (r.p 0).getLsbD 8 then .cleared else .auto
          starvation := (highByte (r.p 4)).toNat, runFrames := (r.p 5).toNat
          enables := { lifecycle := (r.p 0).getLsbD 9, fault := (r.p 0).getLsbD 10, signal := (r.p 0).getLsbD 11
                       onset := (r.p 0).getLsbD 12, segment := (r.p 0).getLsbD 13 } })))))

/-- DEFINE DETECTOR and DEFINE WATCH, in the same way (R144, R147, R148). -/
def Obligations.DefineDetectorAndWatchStageTheirFields : Prop :=
  NumberChecked .defineDetector 0x04 4 ∧ NumberChecked .defineWatch 0x05 4 ∧
  (∀ (s : State) (r : CommandRecord) (p : Fin 4), Executing s r 0x04 → (lowByte (r.p 0)).toNat = p.val →
    let staged : Option DetectorDef → State := fun d => answered { s with cmd := { s.cmd with staged :=
      { s.cmd.staged with detectors := s.cmd.staged.detectors.set p.val d } } } r .done 0 none
    let size := ((r.p 1).extractLsb' 8 4).toNat
    let on := (r.p 2).toNat
    let off := (r.p 3).toNat
    let onTime := (lowByte (r.p 4)).toNat
    let offTime := (highByte (r.p 4)).toNat
    let good1 := 3 ≤ size ∧ size ≤ 8
    let good2 := on ≤ 32767
    let good3 := off ≤ 32767 ∧ off ≤ on
    let good4 := 1 ≤ onTime ∧ 1 ≤ offTime
    ((r.p 0).getLsbD 15 = false → exec .defineDetector s = .next (staged none)) ∧
    ((r.p 0).getLsbD 15 = true →
      (¬ good1 → exec .defineDetector s = .next (answered s r .invalid 1 none)) ∧
      (good1 → ¬ good2 → exec .defineDetector s = .next (answered s r .invalid 2 none)) ∧
      (good1 → good2 → ¬ good3 → exec .defineDetector s = .next (answered s r .invalid 3 none)) ∧
      (good1 → good2 → good3 → ¬ good4 → exec .defineDetector s = .next (answered s r .invalid 4 none)) ∧
      (good1 → good2 → good3 → good4 → exec .defineDetector s = .next (staged (some
        { blockFrames := 2 ^ size, mask := lowByte (r.p 1), onThreshold := on, offThreshold := off, onTime := onTime
          offTime := offTime, gating := (r.p 0).getLsbD 8 }))))) ∧
  (∀ (s : State) (r : CommandRecord) (w : Fin 4), Executing s r 0x05 → (lowByte (r.p 0)).toNat = w.val →
    let staged : Option WatchDef → State := fun d => answered { s with cmd := { s.cmd with staged :=
      { s.cmd.staged with watches := s.cmd.staged.watches.set w.val d } } } r .done 0 none
    let mode := ((r.p 0).extractLsb' 8 2).toNat
    let top := (lowByte (r.p 2)).toNat
    ((r.p 0).getLsbD 15 = false → exec .defineWatch s = .next (staged none)) ∧
    ((r.p 0).getLsbD 15 = true →
      (mode = 3 → exec .defineWatch s = .next (answered s r .invalid 0 none)) ∧
      (mode < 3 → 7 < top → exec .defineWatch s = .next (answered s r .invalid 2 none)) ∧
      (mode < 3 → top ≤ 7 → exec .defineWatch s = .next (staged (some
        { addr := BitVec.ofNat 19 ((r.p 1).toNat + 65536 * top), mask := r.p 3
          mode := if mode = 0 then .any else if mode = 1 then .all else .none
          trigger := if (r.p 0).getLsbD 10 then .enter else .each
          action := if (r.p 0).getLsbD 11 then .block else .note })))))

/-- A successful APPLY sets every named object afresh from its staged copy: a stream is IDLE with an empty ring, or ABSENT; a
MASTER port is RUNNING and a SLAVE port UNSYNCED; a detector is QUIET, a watch NOT MATCHING. The others, memory, the events and
the control rings are left. An access forwarded against a ring it recreates or removes, and a burst granted against it, make no
ring effect any more (R35, R44, R52, R84, R85, R112, R134, R152, R153). With no port defined the replay values are 0 (log 13).
-/
def Obligations.ApplySetsTheNamedObjects : Prop :=
  ∀ (s : State) (r : CommandRecord), Executing s r 0x06 → s.applyWalk (objectSet r) = none →
    ∃ t, exec .apply s = .next (answered t r .done 0 none) ∧
      t = { s with path := { s.path with phase := t.path.phase }, arb := { s.arb with use := t.arb.use }, rings := t.rings
                   streams := t.streams, ports := t.ports, detectors := t.detectors, watches := t.watches } ∧
      t.ring .command = s.ring .command ∧ t.ring .event = s.ring .event ∧
      (∀ n : Fin 8, named r n.val = true →
        t.stream n =
          { active := s.cmd.staged.streams[n.val]
            state := match s.cmd.staged.streams[n.val] with
              | some _ => .idle
              | none => .absent
            stopping := none, limit := none, limitReached := false, extension := none, fetched := 0, taken := 0, sent := 0
            admitted := 0, deposited := 0, discarded := 0, flags := Vector.replicate 6 false, counts := Vector.replicate 6 0
            k := 0
            replay := Vector.replicate 8 (match (t.port (portOf n)).active with
              | some q => q.idle
              | none => 0)
            attenuation := 0, mute := false, starvation := none, gateOpen := false, segOpen := false, segWords := 0 } ∧
        t.ring (.stream n) = { producer := 0, consumer := 0, fill := 0, lap := some 0 }) ∧
      (∀ n : Fin 8, named r n.val = false → t.stream n = s.stream n ∧ t.ring (.stream n) = s.ring (.stream n)) ∧
      (∀ p : Fin 4, named r (8 + p.val) = true → t.port p =
        { active := s.cmd.staged.ports[p.val]
          sync := match s.cmd.staged.ports[p.val] with
            | none => .none
            | some q => match q.role with
              | .master => .running
              | .slave => .unsynced
          framePos := none, framesSeen := 0, txFifo := [], rxFifo := [], tx := .taking, admitted := false, slotsStarted := 0
          wordsDone := 0, slotWord := 0 }) ∧
      (∀ p : Fin 4, named r (8 + p.val) = false →
        t.port p = { s.port p with
          txFifo := if named r (txOf p).val then [] else (s.port p).txFifo
          tx := if named r (txOf p).val then .taking else (s.port p).tx
          rxFifo := if named r (rxOf p).val then [] else (s.port p).rxFifo
          admitted := (s.port p).admitted && !named r (rxOf p).val }) ∧
      (∀ p : Fin 4, t.detector p =
        if named r (12 + p.val) || named r (8 + p.val) || named r (rxOf p).val then
          { active := if named r (12 + p.val) then s.cmd.staged.detectors[p.val] else (s.detector p).active
            state := .quiet, count := 0, frames := 0, peak := 0, last := 0 }
        else s.detector p) ∧
      (∀ w : Fin 4, t.watch w =
        if named r (16 + w.val) then { active := s.cmd.staged.watches[w.val], matching := false } else s.watch w) ∧
      (∀ b, s.arb.use = .fetch b →
        t.arb.use = .fetch { b with ringStands := b.ringStands && !named r (txOf b.port).val }) ∧
      (∀ b, s.arb.use = .deposit b →
        t.arb.use = .deposit { b with ringStands := b.ringStands && !named r (rxOf b.port).val }) ∧
      ((∀ b, s.arb.use ≠ .fetch b) → (∀ b, s.arb.use ≠ .deposit b) → t.arb.use = s.arb.use) ∧
      (∀ a e n, s.path.phase = .forwarded a e → ActsOn e n → named r n.val = true → t.path.phase = .forwarded a .none) ∧
      (∀ a e, s.path.phase = .forwarded a e → (∀ n, ActsOn e n → named r n.val = false) → t.path.phase = s.path.phase) ∧
      ((∀ h, s.path.phase ≠ .held h) → (∀ a e, s.path.phase ≠ .forwarded a e) → t.path.phase = s.path.phase) ∧
      (∀ h, s.path.phase = .held h → (∀ n, h.ring = .stream n → named r n.val = false) → t.path.phase = s.path.phase)

/-- A held access whose ring APPLY recreates or removes (R45, R46, R153): released as a pass-through outside the new window, a
read inside it stays held and no fill releases it, a write inside it is a posting at slot 0 and an ORDER write elsewhere; on
another ring it stays as it is. -/
def Obligations.ApplyJudgesTheHeldAccessAgain : Prop :=
  ∀ (s : State) (r : CommandRecord) (h : HeldAccess) (n : Fin 8), Executing s r 0x06 →
    s.applyWalk (objectSet r) = none → s.path.phase = .held h → h.ring = .stream n →
    ∃ t, exec .apply s = .next t ∧ t.path.bus = s.path.bus ∧ t.path.pd = s.path.pd ∧
      (named r n.val = false → t.path.phase = .held h) ∧
      (named r n.val = true → s.cmd.staged.streams[n.val] = none → t.path.phase = .forwarded h.access .none) ∧
      (∀ d, named r n.val = true → s.cmd.staged.streams[n.val] = some d → 1 ≤ d.length →
        let a := h.access.addr.toNat
        (a < d.base.toNat ∨ d.base.toNat + d.length ≤ a → t.path.phase = .forwarded h.access .none) ∧
        (d.base.toNat ≤ a → a < d.base.toNat + d.length → h.access.kind = .read →
          t.path.phase = .held { h with releasable := false }) ∧
        (∀ dat, h.access.kind = .write dat → h.access.high = true → isTx n = true →
          (a = d.base.toNat → t.path.phase = .forwarded h.access (.post (.stream n))) ∧
          (d.base.toNat < a → a < d.base.toNat + d.length →
            t.path.phase = .forwarded h.access (.order n (a - d.base.toNat)))))

/-- The checks of APPLY over the resulting configuration, object by object in number order (R149, R150): it succeeds if and only
if every object passes its busy check and its consistency checks; otherwise it returns BUSY or CONFLICT with the first object
that fails, by the check that failed, and leaves everything as it was (R151). That no window is empty is what DEFINE STREAM
takes, and QueuesStayBounded keeps it. -/
def Obligations.ApplyChecksTheWholeConfiguration : Prop :=
  ∀ (s : State) (r : CommandRecord), (∀ n d, resStream s r n = some d → 1 ≤ d.length) →
    (s.applyWalk (objectSet r) = none ↔ ∀ i, i < 20 → BusyPasses s r i ∧ Consistent s r i) ∧
    (∀ code detail, s.applyWalk (objectSet r) = some (code, detail) →
      detail < 20 ∧ (∀ i, i < detail → BusyPasses s r i ∧ Consistent s r i) ∧
      ((code = .busy ∧ ¬ BusyPasses s r detail) ∨
        (code = .conflict ∧ BusyPasses s r detail ∧ ¬ Consistent s r detail))) ∧
    (Executing s r 0x06 →
      ((∀ i, i < 20 → BusyPasses s r i ∧ Consistent s r i) →
        ∃ t, exec .apply s = .next (answered t r .done 0 none)) ∧
      (∀ i, i < 20 → (∀ j, j < i → BusyPasses s r j ∧ Consistent s r j) →
        (¬ BusyPasses s r i → exec .apply s = .next (answered s r .busy i none)) ∧
        (BusyPasses s r i → ¬ Consistent s r i → exec .apply s = .next (answered s r .conflict i none))))

/-- START (R53): an IDLE stream begins a run, ARMED with the trigger flag and PENDING without; the run's numbers are zero, the
limit is C × run frames or endless, the ring, the flags, the counts and the level are kept; in any other state of a run, BUSY;
of an ABSENT stream, NOTREADY. -/
def Obligations.StartBeginsARun : Prop :=
  AbsentRefused .start 0x08 ∧
  ∀ (s : State) (r : CommandRecord) (n : Fin 8), Executing s r 0x08 → (lowByte (r.p 0)).toNat = n.val →
    let e := s.stream n
    let p := portOf n
    (∀ d, e.state = .idle → e.active = some d → ∃ t, exec .start s = .next (answered t r .done 0 none) ∧
      t = { s with streams := t.streams, ports := t.ports, detectors := t.detectors } ∧
      (∀ m, m ≠ n → t.stream m = s.stream m) ∧ (∀ q, q ≠ p → t.port q = s.port q ∧ t.detector q = s.detector q) ∧
      t.stream n = { e with
        state := if (r.p 0).getLsbD 8 then .armed else .pending
        stopping := none, limit := if d.runFrames = 0 then none else some (s.channels p * d.runFrames)
        limitReached := false, extension := none, fetched := 0, taken := 0, sent := 0, admitted := 0, deposited := 0
        discarded := 0, k := 0, replay := Vector.replicate 8 (s.idleWord p), starvation := none
        gateOpen := !isTx n && !(match (s.detector p).active with
          | some g => g.gating
          | none => false)
        segOpen := false, segWords := 0 } ∧
      (isTx n = true → t.port p = { s.port p with txFifo := [], tx := .taking } ∧ t.detector p = s.detector p) ∧
      (isTx n = false → t.port p = { s.port p with rxFifo := [], admitted := false } ∧
        t.detector p = { active := (s.detector p).active, state := .quiet, count := 0, frames := 0, peak := 0, last := 0 })) ∧
    (e.state = .armed ∨ e.state = .pending ∨ e.state = .running ∨ e.state = .stopping →
      exec .start s = .next (answered s r .busy n.val none))

/-- STOP (R56, R58): DONE in every state but ABSENT; nothing in IDLE and STOPPING; from ARMED and PENDING the stream is IDLE,
reason STOPPED, and a burst under way for it is of no run any more (R68); from RUNNING it is STOPPING. On a receive stream an
open gate closes with an END mark behind the FIFO (R121), the marks at the head are processed, so that one put into an empty
FIFO raises SEGMENT_END at once (R69, R124), and a drained FIFO makes the stream IDLE with STREAM_ENDED after them. -/
def Obligations.StopActsByTheState : Prop :=
  ∀ (s : State) (r : CommandRecord) (n : Fin 8) (d : StreamDef), Executing s r 0x09 → (lowByte (r.p 0)).toNat = n.val →
    (s.stream n).active = some d →
    let e := s.stream n
    let p := portOf n
    let fifo := (s.port p).txFifo
    let ended : Nat → EventUnit := fun discarded => raisedIf d.enables.lifecycle s.events
      ⟨.streamEnded, BitVec.ofNat 8 n.val, 2, wholeFrames (if isTx n then e.sent else e.deposited) (s.channels p),
        BitVec.ofNat 16 (min 65535 discarded), s.time.counter⟩
    let idle : StreamEntry := { e with state := .idle, stopping := none, starvation := none }
    let stopping : StreamEntry := { e with state := .stopping, stopping := some .stopped, starvation := none }
    (e.state = .idle ∨ e.state = .stopping → exec .stop s = .next (answered s r .done 0 none)) ∧
    (e.state = .armed ∨ e.state = .pending → ∃ t, exec .stop s = .next (answered t r .done 0 none) ∧
      t = { s with streams := t.streams, ports := t.ports, events := t.events, arb := { s.arb with use := t.arb.use } } ∧
      BurstOutlivesRun s.arb.use t.arb.use n ∧ (∀ m, m ≠ n → t.stream m = s.stream m) ∧
      (e.state = .armed ∨ isTx n = false → t.stream n = idle ∧ t.ports = s.ports ∧ t.events = ended e.discarded) ∧
      (e.state = .pending → isTx n = true → t.stream n = { idle with discarded := e.discarded + fifo.length } ∧
        t.port p = { s.port p with txFifo := [] } ∧ (∀ q, q ≠ p → t.port q = s.port q) ∧
        t.events = ended (e.discarded + fifo.length))) ∧
    (e.state = .running → isTx n = true → exec .stop s = .next (answered (s.setStream n stopping) r .done 0 none)) ∧
    (e.state = .running → isTx n = false →
      let closing := s.gating p && e.gateOpen
      let marked := (s.port p).rxFifo ++ if closing then [.mark .segEnd s.time.counter] else []
      let busy := depositUnderWay s p
      let m : MarkWork := if busy then ⟨marked, e.segOpen, e.segWords, s.events⟩
        else marksProcessed d.enables.segment n (s.ring (.stream n)) marked e.segOpen e.segWords s.events
      let left : StreamEntry := { e with gateOpen := e.gateOpen && !closing, segOpen := m.segOpen, segWords := m.segWords
                                         starvation := none }
      ∃ t, exec .stop s = .next (answered t r .done 0 none) ∧
        t = { s with streams := t.streams, ports := t.ports, events := t.events } ∧ (∀ m, m ≠ n → t.stream m = s.stream m) ∧
        (∀ q, q ≠ p → t.port q = s.port q) ∧ t.port p = { s.port p with rxFifo := m.fifo } ∧
        (m.fifo = [] → busy = false → t.stream n = { left with state := .idle, stopping := none } ∧
          t.events = raisedIf d.enables.lifecycle m.events ⟨.streamEnded, BitVec.ofNat 8 n.val, 2,
            wholeFrames e.deposited (s.channels p), BitVec.ofNat 16 (min 65535 e.discarded), s.time.counter⟩) ∧
        (m.fifo ≠ [] ∨ busy = true →
          t.stream n = { left with state := .stopping, stopping := some .stopped } ∧ t.events = m.events)) ∧
    (e.state = .running → isTx n = false → (s.port p).rxFifo = [] → (∀ b, s.arb.use = .deposit b → b.port ≠ p) →
      (s.gating p = false ∨ e.gateOpen = false →
        exec .stop s = .next (answered { s.setStream n idle with events := ended e.discarded } r .done 0 none)) ∧
      (s.gating p = true → e.gateOpen = true → ∃ t, exec .stop s = .next (answered t r .done 0 none) ∧
        t.stream n = { idle with gateOpen := false, segOpen := false } ∧ (t.port p).rxFifo = [] ∧
        t.events = raisedIf d.enables.lifecycle
          (raisedIf d.enables.segment s.events ⟨.segmentEnd, BitVec.ofNat 8 n.val,
            BitVec.ofNat 16 (s.ring (.stream n)).producer, (s.ring (.stream n)).lap.getD 0, BitVec.ofNat 16 e.segWords,
            s.time.counter⟩)
          ⟨.streamEnded, BitVec.ofNat 8 n.val, 2, wholeFrames e.deposited (s.channels p),
            BitVec.ofNat 16 (min 65535 e.discarded), s.time.counter⟩)) ∧
    (∀ x f, e.state = .running → isTx n = false → (s.port p).rxFifo = x :: f → x.isMark = false →
      (s.gating p = true ∧ e.gateOpen = true →
        exec .stop s = .next (answered ((s.setStream n { stopping with gateOpen := false }).setPort p
          { s.port p with rxFifo := x :: f ++ [.mark .segEnd s.time.counter] }) r .done 0 none)) ∧
      (s.gating p = false ∨ e.gateOpen = false →
        exec .stop s = .next (answered (s.setStream n stopping) r .done 0 none)))

/-- ABORT (R59, R126): a run ends at once with its FIFO thrown out and counted, an open segment closed directly, and
STREAM_ENDED with reason ABORTED last; an IDLE stream is left; rings and a held access are kept; a burst under way for the stream
goes on, of no run any more (R68, R71). -/
def Obligations.AbortEndsTheRunAtOnce : Prop :=
  ∀ (s : State) (r : CommandRecord) (n : Fin 8) (d : StreamDef), Executing s r 0x0A → (lowByte (r.p 0)).toNat = n.val →
    (s.stream n).active = some d →
    let e := s.stream n
    let p := portOf n
    let v := s.ring (.stream n)
    let thrown := if isTx n then (s.port p).txFifo.length else ((s.port p).rxFifo.filter RxEntry.isSample).length
    let closing := !isTx n && e.segOpen
    let closed := raisedIf (d.enables.segment && closing) s.events
      ⟨.segmentEnd, BitVec.ofNat 8 n.val, BitVec.ofNat 16 v.producer, v.lap.getD 0, BitVec.ofNat 16 e.segWords,
        s.time.counter⟩
    (e.state = .idle → exec .abort s = .next (answered s r .done 0 none)) ∧
    (e.state = .armed ∨ e.state = .pending ∨ e.state = .running ∨ e.state = .stopping →
      ∃ t, exec .abort s = .next (answered t r .done 0 none) ∧
        t = { s with streams := t.streams, ports := t.ports, events := t.events, arb := { s.arb with use := t.arb.use } } ∧
        BurstOutlivesRun s.arb.use t.arb.use n ∧
        t.stream n = { e with state := .idle, stopping := none, starvation := none, discarded := e.discarded + thrown
                              gateOpen := e.gateOpen && isTx n, segOpen := e.segOpen && isTx n } ∧
        (∀ m, m ≠ n → t.stream m = s.stream m) ∧ (∀ q, q ≠ p → t.port q = s.port q) ∧
        (isTx n = true → t.port p = { s.port p with txFifo := [] }) ∧
        (isTx n = false → t.port p = { s.port p with rxFifo := [], admitted := false }) ∧
        t.events = raisedIf d.enables.lifecycle closed
          ⟨.streamEnded, BitVec.ofNat 8 n.val, 3, wholeFrames (if isTx n then e.sent else e.deposited) (s.channels p),
            BitVec.ofNat 16 (min 65535 (e.discarded + thrown)), s.time.counter⟩)

/-- EXTEND, by the first of the cases of R61 that applies. -/
def Obligations.ExtendIsDecidedByTheFirstCase : Prop :=
  ∀ (s : State) (r : CommandRecord) (n : Fin 8), Executing s r 0x0B → (lowByte (r.p 0)).toNat = n.val →
    let e := s.stream n
    let E := (r.p 1).toNat
    let late := e.state = .idle ∨ e.state = .stopping ∨ e.limitReached = true
    (e.state = .absent → exec .extend s = .next (answered s r .notready n.val none)) ∧
    (e.state ≠ .absent → E = 0 → exec .extend s = .next (answered s r .invalid 1 none)) ∧
    (e.state ≠ .absent → E ≠ 0 → late → exec .extend s = .next (answered s r .late 0 none)) ∧
    (e.state ≠ .absent → E ≠ 0 → ¬ late → e.limit = none → exec .extend s = .next (answered s r .invalid 0 none)) ∧
    (∀ l f, e.state ≠ .absent → E ≠ 0 → ¬ late → e.limit = some l → e.extension = some f →
      exec .extend s = .next (answered s r .busy n.val none)) ∧
    (∀ l, e.state ≠ .absent → E ≠ 0 → ¬ late → e.limit = some l → e.extension = none →
      exec .extend s = .next (answered (s.setStream n { e with extension := some E }) r .done 0 none))

/-- SET LEVEL and CLEAR FAULT (R75, R79, R156, R157): the level of a transmit stream; the named flags of a stream, the counts
kept. -/
def Obligations.LevelAndFlagsAreSet : Prop :=
  NumberChecked .setLevel 0x0C 8 ∧ NumberChecked .clearFault 0x0D 8 ∧ AbsentRefused .clearFault 0x0D ∧
  (∀ (s : State) (r : CommandRecord) (n : Fin 8), Executing s r 0x0C → (lowByte (r.p 0)).toNat = n.val →
    let e := s.stream n
    let a := (lowByte (r.p 1)).toNat
    (isTx n = false → exec .setLevel s = .next (answered s r .invalid 0 none)) ∧
    (isTx n = true → e.state = .absent → exec .setLevel s = .next (answered s r .notready n.val none)) ∧
    (isTx n = true → e.state ≠ .absent → 3 < a → exec .setLevel s = .next (answered s r .invalid 1 none)) ∧
    (isTx n = true → e.state ≠ .absent → a ≤ 3 → exec .setLevel s =
      .next (answered (s.setStream n { e with attenuation := a, mute := (r.p 1).getLsbD 8 }) r .done 0 none))) ∧
  (∀ (s : State) (r : CommandRecord) (n : Fin 8), Executing s r 0x0D → (lowByte (r.p 0)).toNat = n.val →
    (s.stream n).state ≠ .absent →
    ∃ flags : Vector Bool 6, (∀ i, (h : i < 6) → flags[i] = ((s.stream n).flags[i] && !(r.p 1).getLsbD (i + 1))) ∧
      exec .clearFault s = .next (answered (s.setStream n { s.stream n with flags := flags }) r .done 0 none))

/-- QUERY STREAM (R63, R158, R191): number and state, the flags a fault a bit, the ring, the frames remaining; zeros for an
ABSENT stream. Nothing else changes. -/
def Obligations.QueryStreamReports : Prop :=
  NumberChecked .queryStream 0x10 8 ∧
  ∀ (s : State) (r : CommandRecord) (n : Fin 8), Executing s r 0x10 → (lowByte (r.p 0)).toNat = n.val →
    let e := s.stream n
    let v := s.ring (.stream n)
    let out := if isTx n then e.taken else e.deposited
    ∃ w : Vector Word 6, exec .queryStream s = .next (answered s r .done 0 (some w)) ∧
      (e.state = .absent → w = #v[BitVec.ofNat 16 n.val, 0, 0, 0, 0, 0]) ∧
      (e.state ≠ .absent →
        w[0] = BitVec.ofNat 16 (n.val + 256 * match e.state with
          | .absent => 0
          | .idle => 1
          | .armed => 2
          | .pending => 3
          | .running => 4
          | .stopping => 5) ∧
        (∀ f, w[1].getLsbD (f.index.val + 1) = (canHave n f && e.flag f)) ∧ w[1].getLsbD 0 = false ∧ w[1].toNat < 128 ∧
        w[2] = BitVec.ofNat 16 v.producer ∧ w[3] = BitVec.ofNat 16 v.consumer ∧ w[4] = BitVec.ofNat 16 v.fill ∧
        w[5] = if e.state = .idle then 0 else match e.limit with
          | none => 0
          | some l => BitVec.ofNat 16 (min 65535 ((l - out) / s.channels (portOf n))))

/-- QUERY FAULTS: the six counts, 0 for a fault the stream cannot have; with clear-after the counts are 0 afterwards and the flags
are kept (R75, R159). QUERY PORT (R109, R160, R191). -/
def Obligations.QueryFaultsAndQueryPortReport : Prop :=
  NumberChecked .queryFaults 0x11 8 ∧ NumberChecked .queryPort 0x12 4 ∧
  (∀ (s : State) (r : CommandRecord) (n : Fin 8), Executing s r 0x11 → (lowByte (r.p 0)).toNat = n.val →
    let e := s.stream n
    let c : StreamFault → Word := fun f => if canHave n f then BitVec.ofNat 16 (e.faultCount f) else 0
    let w : Vector Word 6 := #v[c .underrun, c .overrun, c .frame, c .refused, c .empty, c .order]
    ((r.p 0).getLsbD 8 = false → exec .queryFaults s = .next (answered s r .done 0 (some w))) ∧
    ((r.p 0).getLsbD 8 = true → exec .queryFaults s =
      .next (answered (s.setStream n { e with counts := Vector.replicate 6 0 }) r .done 0 (some w)))) ∧
  (∀ (s : State) (r : CommandRecord) (p : Fin 4), Executing s r 0x12 → (lowByte (r.p 0)).toNat = p.val →
    let q := s.port p
    let x := s.detector p
    let first : Word := match q.active with
      | none => 0
      | some d => BitVec.ofNat 16 (d.channels + (match d.role with
        | .master => 0
        | .slave => 256) + 32768)
    let state := match x.state with
      | .quiet => 0
      | .onset => 1
      | .present => 2
      | .fading => 3
    exec .queryPort s = .next (answered s r .done 0 (some #v[first, q.framesSeen, BitVec.ofNat 16 q.txFifo.length,
      BitVec.ofNat 16 (q.rxFifo.countP RxEntry.isSample),
      BitVec.ofNat 16 (q.rxFifo.countP RxEntry.isMark + 256 * state), BitVec.ofNat 16 x.last])))

/-- SET TIME loads the counter and the source; SET LINE sets the mode, a pulse under way going on only from PULSE to PULSE; NOP
and an unknown code have no effect. A field out of range is INVALID (R161 to R164, R174, R178). -/
def Obligations.PartCommandsSetTimeAndLine : Prop :=
  (∀ (s : State) (r : CommandRecord), Executing s r 0x18 →
    (1 < (r.p 2).toNat → exec .setTime s = .next (answered s r .invalid 2 none)) ∧
    (∀ src : TagSource, (r.p 2).toNat = src.number → exec .setTime s =
      .next (answered { s with time := { counter := r.p 1 ++ r.p 0, source := src } } r .done 0 none))) ∧
  (∀ (s : State) (r : CommandRecord), Executing s r 0x19 →
    (1 < (r.p 0).toNat → exec .setLine s = .next (answered s r .invalid 0 none)) ∧
    ((r.p 0).toNat = 0 → exec .setLine s =
      .next (answered { s with events := { s.events with line := .level, pulse := none } } r .done 0 none)) ∧
    ((r.p 0).toNat = 1 → exec .setLine s = .next (answered { s with events :=
      { s.events with line := .pulse, pulse := match s.events.line with
        | .level => none
        | .pulse => s.events.pulse } } r .done 0 none))) ∧
  (∀ (s : State) (r : CommandRecord), Executing s r 0x01 → exec .nop s = .next (answered s r .done 0 none)) ∧
  (∀ (s : State) (r : CommandRecord), s.live = true → s.cmd.state = .executing r →
    r.code ∉ ([0x01, 0x02, 0x03, 0x04, 0x05, 0x06, 0x08, 0x09, 0x0A, 0x0B, 0x0C, 0x0D, 0x10, 0x11, 0x12, 0x18, 0x19, 0x1F] :
      List Byte) → exec .unknownCommand s = .next (answered s r .unknown 0 none))

/-- RESET PART (R165, R186, R187): DONE. First every run, in stream order, is ended with its open segment closed directly and
STREAM_ENDED with reason RESET (R80, R127); then the streams, ports, detectors, watches and staged copies are as after reset and
the stream rings gone, so that a forwarded access judged against one, and a burst granted against one, make no ring effect any
more (R35); then a held access is released as a pass-through. The rest is kept. That the streams end, and their events join the
queue, in the order of their numbers is read from the manual (log 17). -/
def Obligations.ResetPartRemovesTheDefinitions : Prop :=
  ∀ (s : State) (r : CommandRecord), Executing s r 0x1F →
    let ended : EventUnit → Fin 8 → EventUnit := fun u n =>
      let e := s.stream n
      let p := portOf n
      let v := s.ring (.stream n)
      let thrown := if isTx n then (s.port p).txFifo.length else ((s.port p).rxFifo.filter RxEntry.isSample).length
      match e.active with
      | none => u
      | some d =>
        if inRun e.state then
          raisedIf d.enables.lifecycle
            (raisedIf (d.enables.segment && !isTx n && e.segOpen) u
              ⟨.segmentEnd, BitVec.ofNat 8 n.val, BitVec.ofNat 16 v.producer, v.lap.getD 0, BitVec.ofNat 16 e.segWords,
                s.time.counter⟩)
            ⟨.streamEnded, BitVec.ofNat 8 n.val, 5, wholeFrames (if isTx n then e.sent else e.deposited) (s.channels p),
              BitVec.ofNat 16 (min 65535 (e.discarded + thrown)), s.time.counter⟩
        else u
    ∃ t, exec .resetPart s = .next (answered t r .done 0 none) ∧
      t = { s with path := { s.path with phase := t.path.phase }, arb := { s.arb with use := t.arb.use }, rings := t.rings
                   streams := State.reset.streams, ports := State.reset.ports, detectors := State.reset.detectors
                   watches := State.reset.watches, cmd := { s.cmd with staged := Staged.none }
                   events := [0, 1, 2, 3, 4, 5, 6, 7].foldl ended s.events } ∧
      t.ring .command = s.ring .command ∧ t.ring .event = s.ring .event ∧
      (∀ n, t.ring (.stream n) = State.reset.ring (.stream n)) ∧
      (∀ b, s.arb.use = .fetch b → t.arb.use = .fetch
        { b with ringStands := false, runStands := b.runStands && !inRun (s.stream (txOf b.port)).state }) ∧
      (∀ b, s.arb.use = .deposit b → t.arb.use = .deposit
        { b with ringStands := false, runStands := b.runStands && !inRun (s.stream (rxOf b.port)).state }) ∧
      ((∀ b, s.arb.use ≠ .fetch b) → (∀ b, s.arb.use ≠ .deposit b) → t.arb.use = s.arb.use) ∧
      (∀ h, s.path.phase = .held h → t.path.phase = .forwarded h.access .none) ∧
      (∀ a e n, s.path.phase = .forwarded a e → ActsOn e n → t.path.phase = .forwarded a .none) ∧
      (∀ a e, s.path.phase = .forwarded a e → (∀ n, ¬ ActsOn e n) → t.path.phase = s.path.phase) ∧
      ((∀ h, s.path.phase ≠ .held h) → (∀ a e, s.path.phase ≠ .forwarded a e) → t.path.phase = s.path.phase)

/-! ### Invariants of every step -/

/-- Memory keeps its canonical form, which is the model's own: the keys of its cells (log 3) and what an unlisted cell reads as
(log 4). -/
def Obligations.MemoryStaysCanonical : Prop :=
  ∀ s t : State, Memory.wf s.mem = true → step s = .next t → Memory.wf t.mem = true

/-- Every ring stays in order (R23): indices below the slot count, fill at most the slot count and equal to the distance from
consumer to producer, whatever the processor and the part do. -/
def Obligations.RingsStayInOrder : Prop :=
  ∀ s t : State, RingsInOrder s → step s = .next t → RingsInOrder t

/-- No FIFO and no queue ever grows past its bound (R67, R91, R98, R102, R167), and every definition, active or staged, stays
one that the DEFINE commands take (R145 to R147). -/
def Obligations.QueuesStayBounded : Prop :=
  (∀ s t : State, QueuesBounded s → step s = .next t → QueuesBounded t) ∧
  (∀ s t : State, DefinitionsInRange s → step s = .next t → DefinitionsInRange t)

/-- A stream changes state only along its life cycle. -/
def Obligations.StreamsFollowTheirLifeCycle : Prop :=
  ∀ (s t : State) (n : Fin 8), step s = .next t → LifeCycle (s.stream n).state (t.stream n).state
end

