-- ==== Sys2Proof/Laws/State.lean ====
section
/-! SUPPORT. The state's updates, field by field: what each named update leaves and what it sets. -/

namespace Sys2Proof.Machine

open Sys2Proof

/-! ### `State.setStream` -/

@[simp] theorem setStream_start (s : State) (n : Fin 8) (e : StreamEntry) : (s.setStream n e).start = s.start := rfl
@[simp] theorem setStream_path (s : State) (n : Fin 8) (e : StreamEntry) : (s.setStream n e).path = s.path := rfl
@[simp] theorem setStream_arb (s : State) (n : Fin 8) (e : StreamEntry) : (s.setStream n e).arb = s.arb := rfl
@[simp] theorem setStream_rings (s : State) (n : Fin 8) (e : StreamEntry) : (s.setStream n e).rings = s.rings := rfl
@[simp] theorem setStream_engines (s : State) (n : Fin 8) (e : StreamEntry) : (s.setStream n e).engines = s.engines := rfl
@[simp] theorem setStream_ports (s : State) (n : Fin 8) (e : StreamEntry) : (s.setStream n e).ports = s.ports := rfl
@[simp] theorem setStream_detectors (s : State) (n : Fin 8) (e : StreamEntry) : (s.setStream n e).detectors = s.detectors := rfl
@[simp] theorem setStream_watches (s : State) (n : Fin 8) (e : StreamEntry) : (s.setStream n e).watches = s.watches := rfl
@[simp] theorem setStream_cmd (s : State) (n : Fin 8) (e : StreamEntry) : (s.setStream n e).cmd = s.cmd := rfl
@[simp] theorem setStream_events (s : State) (n : Fin 8) (e : StreamEntry) : (s.setStream n e).events = s.events := rfl
@[simp] theorem setStream_time (s : State) (n : Fin 8) (e : StreamEntry) : (s.setStream n e).time = s.time := rfl
@[simp] theorem setStream_mem (s : State) (n : Fin 8) (e : StreamEntry) : (s.setStream n e).mem = s.mem := rfl
@[simp] theorem setStream_freeCount (s : State) (n : Fin 8) (e : StreamEntry) : (s.setStream n e).freeCount = s.freeCount := rfl
@[simp] theorem setStream_pending (s : State) (n : Fin 8) (e : StreamEntry) : (s.setStream n e).pending = s.pending := rfl

@[simp] theorem setStream_port (s : State) (n : Fin 8) (e : StreamEntry) (q : Fin 4) : (s.setStream n e).port q = s.port q := rfl
@[simp] theorem setStream_detector (s : State) (n : Fin 8) (e : StreamEntry) (q : Fin 4) : (s.setStream n e).detector q = s.detector q := rfl
@[simp] theorem setStream_watch (s : State) (n : Fin 8) (e : StreamEntry) (q : Fin 4) : (s.setStream n e).watch q = s.watch q := rfl
@[simp] theorem setStream_ring (s : State) (n : Fin 8) (e : StreamEntry) (x : RingId) : (s.setStream n e).ring x = s.ring x := rfl
@[simp] theorem setStream_live (s : State) (n : Fin 8) (e : StreamEntry) : (s.setStream n e).live = s.live := rfl
@[simp] theorem setStream_controlBase (s : State) (n : Fin 8) (e : StreamEntry) : (s.setStream n e).controlBase = s.controlBase := rfl
@[simp] theorem setStream_channels (s : State) (n : Fin 8) (e : StreamEntry) (q : Fin 4) : (s.setStream n e).channels q = s.channels q := rfl
@[simp] theorem setStream_idleWord (s : State) (n : Fin 8) (e : StreamEntry) (q : Fin 4) : (s.setStream n e).idleWord q = s.idleWord q := rfl
@[simp] theorem setStream_gating (s : State) (n : Fin 8) (e : StreamEntry) (q : Fin 4) : (s.setStream n e).gating q = s.gating q := rfl
@[simp] theorem setStream_fetching (s : State) (n : Fin 8) (e : StreamEntry) (q : Fin 4) : (s.setStream n e).fetching q = s.fetching q := rfl
@[simp] theorem setStream_depositing (s : State) (n : Fin 8) (e : StreamEntry) (q : Fin 4) : (s.setStream n e).depositing q = s.depositing q := rfl

/-! ### `State.setPort` -/

@[simp] theorem setPort_start (s : State) (p : Fin 4) (e : PortEntry) : (s.setPort p e).start = s.start := rfl
@[simp] theorem setPort_path (s : State) (p : Fin 4) (e : PortEntry) : (s.setPort p e).path = s.path := rfl
@[simp] theorem setPort_arb (s : State) (p : Fin 4) (e : PortEntry) : (s.setPort p e).arb = s.arb := rfl
@[simp] theorem setPort_rings (s : State) (p : Fin 4) (e : PortEntry) : (s.setPort p e).rings = s.rings := rfl
@[simp] theorem setPort_streams (s : State) (p : Fin 4) (e : PortEntry) : (s.setPort p e).streams = s.streams := rfl
@[simp] theorem setPort_engines (s : State) (p : Fin 4) (e : PortEntry) : (s.setPort p e).engines = s.engines := rfl
@[simp] theorem setPort_detectors (s : State) (p : Fin 4) (e : PortEntry) : (s.setPort p e).detectors = s.detectors := rfl
@[simp] theorem setPort_watches (s : State) (p : Fin 4) (e : PortEntry) : (s.setPort p e).watches = s.watches := rfl
@[simp] theorem setPort_cmd (s : State) (p : Fin 4) (e : PortEntry) : (s.setPort p e).cmd = s.cmd := rfl
@[simp] theorem setPort_events (s : State) (p : Fin 4) (e : PortEntry) : (s.setPort p e).events = s.events := rfl
@[simp] theorem setPort_time (s : State) (p : Fin 4) (e : PortEntry) : (s.setPort p e).time = s.time := rfl
@[simp] theorem setPort_mem (s : State) (p : Fin 4) (e : PortEntry) : (s.setPort p e).mem = s.mem := rfl
@[simp] theorem setPort_freeCount (s : State) (p : Fin 4) (e : PortEntry) : (s.setPort p e).freeCount = s.freeCount := rfl
@[simp] theorem setPort_pending (s : State) (p : Fin 4) (e : PortEntry) : (s.setPort p e).pending = s.pending := rfl

@[simp] theorem setPort_stream (s : State) (p : Fin 4) (e : PortEntry) (m : Fin 8) : (s.setPort p e).stream m = s.stream m := rfl
@[simp] theorem setPort_detector (s : State) (p : Fin 4) (e : PortEntry) (q : Fin 4) : (s.setPort p e).detector q = s.detector q := rfl
@[simp] theorem setPort_watch (s : State) (p : Fin 4) (e : PortEntry) (q : Fin 4) : (s.setPort p e).watch q = s.watch q := rfl
@[simp] theorem setPort_ring (s : State) (p : Fin 4) (e : PortEntry) (x : RingId) : (s.setPort p e).ring x = s.ring x := rfl
@[simp] theorem setPort_live (s : State) (p : Fin 4) (e : PortEntry) : (s.setPort p e).live = s.live := rfl
@[simp] theorem setPort_controlBase (s : State) (p : Fin 4) (e : PortEntry) : (s.setPort p e).controlBase = s.controlBase := rfl
@[simp] theorem setPort_gating (s : State) (p : Fin 4) (e : PortEntry) (q : Fin 4) : (s.setPort p e).gating q = s.gating q := rfl
@[simp] theorem setPort_fetching (s : State) (p : Fin 4) (e : PortEntry) (q : Fin 4) : (s.setPort p e).fetching q = s.fetching q := rfl
@[simp] theorem setPort_depositing (s : State) (p : Fin 4) (e : PortEntry) (q : Fin 4) : (s.setPort p e).depositing q = s.depositing q := rfl

/-! ### `State.setDetector` -/

@[simp] theorem setDetector_start (s : State) (p : Fin 4) (e : DetectorEntry) : (s.setDetector p e).start = s.start := rfl
@[simp] theorem setDetector_path (s : State) (p : Fin 4) (e : DetectorEntry) : (s.setDetector p e).path = s.path := rfl
@[simp] theorem setDetector_arb (s : State) (p : Fin 4) (e : DetectorEntry) : (s.setDetector p e).arb = s.arb := rfl
@[simp] theorem setDetector_rings (s : State) (p : Fin 4) (e : DetectorEntry) : (s.setDetector p e).rings = s.rings := rfl
@[simp] theorem setDetector_streams (s : State) (p : Fin 4) (e : DetectorEntry) : (s.setDetector p e).streams = s.streams := rfl
@[simp] theorem setDetector_engines (s : State) (p : Fin 4) (e : DetectorEntry) : (s.setDetector p e).engines = s.engines := rfl
@[simp] theorem setDetector_ports (s : State) (p : Fin 4) (e : DetectorEntry) : (s.setDetector p e).ports = s.ports := rfl
@[simp] theorem setDetector_watches (s : State) (p : Fin 4) (e : DetectorEntry) : (s.setDetector p e).watches = s.watches := rfl
@[simp] theorem setDetector_cmd (s : State) (p : Fin 4) (e : DetectorEntry) : (s.setDetector p e).cmd = s.cmd := rfl
@[simp] theorem setDetector_events (s : State) (p : Fin 4) (e : DetectorEntry) : (s.setDetector p e).events = s.events := rfl
@[simp] theorem setDetector_time (s : State) (p : Fin 4) (e : DetectorEntry) : (s.setDetector p e).time = s.time := rfl
@[simp] theorem setDetector_mem (s : State) (p : Fin 4) (e : DetectorEntry) : (s.setDetector p e).mem = s.mem := rfl
@[simp] theorem setDetector_freeCount (s : State) (p : Fin 4) (e : DetectorEntry) : (s.setDetector p e).freeCount = s.freeCount := rfl
@[simp] theorem setDetector_pending (s : State) (p : Fin 4) (e : DetectorEntry) : (s.setDetector p e).pending = s.pending := rfl

@[simp] theorem setDetector_stream (s : State) (p : Fin 4) (e : DetectorEntry) (m : Fin 8) : (s.setDetector p e).stream m = s.stream m := rfl
@[simp] theorem setDetector_port (s : State) (p : Fin 4) (e : DetectorEntry) (q : Fin 4) : (s.setDetector p e).port q = s.port q := rfl
@[simp] theorem setDetector_watch (s : State) (p : Fin 4) (e : DetectorEntry) (q : Fin 4) : (s.setDetector p e).watch q = s.watch q := rfl
@[simp] theorem setDetector_ring (s : State) (p : Fin 4) (e : DetectorEntry) (x : RingId) : (s.setDetector p e).ring x = s.ring x := rfl
@[simp] theorem setDetector_live (s : State) (p : Fin 4) (e : DetectorEntry) : (s.setDetector p e).live = s.live := rfl
@[simp] theorem setDetector_controlBase (s : State) (p : Fin 4) (e : DetectorEntry) : (s.setDetector p e).controlBase = s.controlBase := rfl
@[simp] theorem setDetector_channels (s : State) (p : Fin 4) (e : DetectorEntry) (q : Fin 4) : (s.setDetector p e).channels q = s.channels q := rfl
@[simp] theorem setDetector_idleWord (s : State) (p : Fin 4) (e : DetectorEntry) (q : Fin 4) : (s.setDetector p e).idleWord q = s.idleWord q := rfl
@[simp] theorem setDetector_fetching (s : State) (p : Fin 4) (e : DetectorEntry) (q : Fin 4) : (s.setDetector p e).fetching q = s.fetching q := rfl
@[simp] theorem setDetector_depositing (s : State) (p : Fin 4) (e : DetectorEntry) (q : Fin 4) : (s.setDetector p e).depositing q = s.depositing q := rfl

/-! ### `State.setWatch` -/

@[simp] theorem setWatch_start (s : State) (w : Fin 4) (e : WatchEntry) : (s.setWatch w e).start = s.start := rfl
@[simp] theorem setWatch_path (s : State) (w : Fin 4) (e : WatchEntry) : (s.setWatch w e).path = s.path := rfl
@[simp] theorem setWatch_arb (s : State) (w : Fin 4) (e : WatchEntry) : (s.setWatch w e).arb = s.arb := rfl
@[simp] theorem setWatch_rings (s : State) (w : Fin 4) (e : WatchEntry) : (s.setWatch w e).rings = s.rings := rfl
@[simp] theorem setWatch_streams (s : State) (w : Fin 4) (e : WatchEntry) : (s.setWatch w e).streams = s.streams := rfl
@[simp] theorem setWatch_engines (s : State) (w : Fin 4) (e : WatchEntry) : (s.setWatch w e).engines = s.engines := rfl
@[simp] theorem setWatch_ports (s : State) (w : Fin 4) (e : WatchEntry) : (s.setWatch w e).ports = s.ports := rfl
@[simp] theorem setWatch_detectors (s : State) (w : Fin 4) (e : WatchEntry) : (s.setWatch w e).detectors = s.detectors := rfl
@[simp] theorem setWatch_cmd (s : State) (w : Fin 4) (e : WatchEntry) : (s.setWatch w e).cmd = s.cmd := rfl
@[simp] theorem setWatch_events (s : State) (w : Fin 4) (e : WatchEntry) : (s.setWatch w e).events = s.events := rfl
@[simp] theorem setWatch_time (s : State) (w : Fin 4) (e : WatchEntry) : (s.setWatch w e).time = s.time := rfl
@[simp] theorem setWatch_mem (s : State) (w : Fin 4) (e : WatchEntry) : (s.setWatch w e).mem = s.mem := rfl
@[simp] theorem setWatch_freeCount (s : State) (w : Fin 4) (e : WatchEntry) : (s.setWatch w e).freeCount = s.freeCount := rfl
@[simp] theorem setWatch_pending (s : State) (w : Fin 4) (e : WatchEntry) : (s.setWatch w e).pending = s.pending := rfl

@[simp] theorem setWatch_stream (s : State) (w : Fin 4) (e : WatchEntry) (m : Fin 8) : (s.setWatch w e).stream m = s.stream m := rfl
@[simp] theorem setWatch_port (s : State) (w : Fin 4) (e : WatchEntry) (q : Fin 4) : (s.setWatch w e).port q = s.port q := rfl
@[simp] theorem setWatch_detector (s : State) (w : Fin 4) (e : WatchEntry) (q : Fin 4) : (s.setWatch w e).detector q = s.detector q := rfl
@[simp] theorem setWatch_ring (s : State) (w : Fin 4) (e : WatchEntry) (x : RingId) : (s.setWatch w e).ring x = s.ring x := rfl
@[simp] theorem setWatch_live (s : State) (w : Fin 4) (e : WatchEntry) : (s.setWatch w e).live = s.live := rfl
@[simp] theorem setWatch_controlBase (s : State) (w : Fin 4) (e : WatchEntry) : (s.setWatch w e).controlBase = s.controlBase := rfl
@[simp] theorem setWatch_channels (s : State) (w : Fin 4) (e : WatchEntry) (q : Fin 4) : (s.setWatch w e).channels q = s.channels q := rfl
@[simp] theorem setWatch_idleWord (s : State) (w : Fin 4) (e : WatchEntry) (q : Fin 4) : (s.setWatch w e).idleWord q = s.idleWord q := rfl
@[simp] theorem setWatch_gating (s : State) (w : Fin 4) (e : WatchEntry) (q : Fin 4) : (s.setWatch w e).gating q = s.gating q := rfl
@[simp] theorem setWatch_fetching (s : State) (w : Fin 4) (e : WatchEntry) (q : Fin 4) : (s.setWatch w e).fetching q = s.fetching q := rfl
@[simp] theorem setWatch_depositing (s : State) (w : Fin 4) (e : WatchEntry) (q : Fin 4) : (s.setWatch w e).depositing q = s.depositing q := rfl

/-! ### `State.setRing` -/

@[simp] theorem setRing_start (s : State) (r : RingId) (v : Ring) : (s.setRing r v).start = s.start := rfl
@[simp] theorem setRing_path (s : State) (r : RingId) (v : Ring) : (s.setRing r v).path = s.path := rfl
@[simp] theorem setRing_arb (s : State) (r : RingId) (v : Ring) : (s.setRing r v).arb = s.arb := rfl
@[simp] theorem setRing_streams (s : State) (r : RingId) (v : Ring) : (s.setRing r v).streams = s.streams := rfl
@[simp] theorem setRing_engines (s : State) (r : RingId) (v : Ring) : (s.setRing r v).engines = s.engines := rfl
@[simp] theorem setRing_ports (s : State) (r : RingId) (v : Ring) : (s.setRing r v).ports = s.ports := rfl
@[simp] theorem setRing_detectors (s : State) (r : RingId) (v : Ring) : (s.setRing r v).detectors = s.detectors := rfl
@[simp] theorem setRing_watches (s : State) (r : RingId) (v : Ring) : (s.setRing r v).watches = s.watches := rfl
@[simp] theorem setRing_cmd (s : State) (r : RingId) (v : Ring) : (s.setRing r v).cmd = s.cmd := rfl
@[simp] theorem setRing_events (s : State) (r : RingId) (v : Ring) : (s.setRing r v).events = s.events := rfl
@[simp] theorem setRing_time (s : State) (r : RingId) (v : Ring) : (s.setRing r v).time = s.time := rfl
@[simp] theorem setRing_mem (s : State) (r : RingId) (v : Ring) : (s.setRing r v).mem = s.mem := rfl
@[simp] theorem setRing_freeCount (s : State) (r : RingId) (v : Ring) : (s.setRing r v).freeCount = s.freeCount := rfl
@[simp] theorem setRing_pending (s : State) (r : RingId) (v : Ring) : (s.setRing r v).pending = s.pending := rfl

@[simp] theorem setRing_stream (s : State) (r : RingId) (v : Ring) (m : Fin 8) : (s.setRing r v).stream m = s.stream m := rfl
@[simp] theorem setRing_port (s : State) (r : RingId) (v : Ring) (q : Fin 4) : (s.setRing r v).port q = s.port q := rfl
@[simp] theorem setRing_detector (s : State) (r : RingId) (v : Ring) (q : Fin 4) : (s.setRing r v).detector q = s.detector q := rfl
@[simp] theorem setRing_watch (s : State) (r : RingId) (v : Ring) (q : Fin 4) : (s.setRing r v).watch q = s.watch q := rfl
@[simp] theorem setRing_live (s : State) (r : RingId) (v : Ring) : (s.setRing r v).live = s.live := rfl
@[simp] theorem setRing_controlBase (s : State) (r : RingId) (v : Ring) : (s.setRing r v).controlBase = s.controlBase := rfl
@[simp] theorem setRing_channels (s : State) (r : RingId) (v : Ring) (q : Fin 4) : (s.setRing r v).channels q = s.channels q := rfl
@[simp] theorem setRing_idleWord (s : State) (r : RingId) (v : Ring) (q : Fin 4) : (s.setRing r v).idleWord q = s.idleWord q := rfl
@[simp] theorem setRing_gating (s : State) (r : RingId) (v : Ring) (q : Fin 4) : (s.setRing r v).gating q = s.gating q := rfl
@[simp] theorem setRing_fetching (s : State) (r : RingId) (v : Ring) (q : Fin 4) : (s.setRing r v).fetching q = s.fetching q := rfl
@[simp] theorem setRing_depositing (s : State) (r : RingId) (v : Ring) (q : Fin 4) : (s.setRing r v).depositing q = s.depositing q := rfl

/-! ### `State.setPhase` -/

@[simp] theorem setPhase_start (s : State) (ph : PathPhase) : (s.setPhase ph).start = s.start := rfl
@[simp] theorem setPhase_arb (s : State) (ph : PathPhase) : (s.setPhase ph).arb = s.arb := rfl
@[simp] theorem setPhase_rings (s : State) (ph : PathPhase) : (s.setPhase ph).rings = s.rings := rfl
@[simp] theorem setPhase_streams (s : State) (ph : PathPhase) : (s.setPhase ph).streams = s.streams := rfl
@[simp] theorem setPhase_engines (s : State) (ph : PathPhase) : (s.setPhase ph).engines = s.engines := rfl
@[simp] theorem setPhase_ports (s : State) (ph : PathPhase) : (s.setPhase ph).ports = s.ports := rfl
@[simp] theorem setPhase_detectors (s : State) (ph : PathPhase) : (s.setPhase ph).detectors = s.detectors := rfl
@[simp] theorem setPhase_watches (s : State) (ph : PathPhase) : (s.setPhase ph).watches = s.watches := rfl
@[simp] theorem setPhase_cmd (s : State) (ph : PathPhase) : (s.setPhase ph).cmd = s.cmd := rfl
@[simp] theorem setPhase_events (s : State) (ph : PathPhase) : (s.setPhase ph).events = s.events := rfl
@[simp] theorem setPhase_time (s : State) (ph : PathPhase) : (s.setPhase ph).time = s.time := rfl
@[simp] theorem setPhase_mem (s : State) (ph : PathPhase) : (s.setPhase ph).mem = s.mem := rfl
@[simp] theorem setPhase_freeCount (s : State) (ph : PathPhase) : (s.setPhase ph).freeCount = s.freeCount := rfl
@[simp] theorem setPhase_pending (s : State) (ph : PathPhase) : (s.setPhase ph).pending = s.pending := rfl

@[simp] theorem setPhase_stream (s : State) (ph : PathPhase) (m : Fin 8) : (s.setPhase ph).stream m = s.stream m := rfl
@[simp] theorem setPhase_port (s : State) (ph : PathPhase) (q : Fin 4) : (s.setPhase ph).port q = s.port q := rfl
@[simp] theorem setPhase_detector (s : State) (ph : PathPhase) (q : Fin 4) : (s.setPhase ph).detector q = s.detector q := rfl
@[simp] theorem setPhase_watch (s : State) (ph : PathPhase) (q : Fin 4) : (s.setPhase ph).watch q = s.watch q := rfl
@[simp] theorem setPhase_ring (s : State) (ph : PathPhase) (x : RingId) : (s.setPhase ph).ring x = s.ring x := rfl
@[simp] theorem setPhase_live (s : State) (ph : PathPhase) : (s.setPhase ph).live = s.live := rfl
@[simp] theorem setPhase_controlBase (s : State) (ph : PathPhase) : (s.setPhase ph).controlBase = s.controlBase := rfl
@[simp] theorem setPhase_channels (s : State) (ph : PathPhase) (q : Fin 4) : (s.setPhase ph).channels q = s.channels q := rfl
@[simp] theorem setPhase_idleWord (s : State) (ph : PathPhase) (q : Fin 4) : (s.setPhase ph).idleWord q = s.idleWord q := rfl
@[simp] theorem setPhase_gating (s : State) (ph : PathPhase) (q : Fin 4) : (s.setPhase ph).gating q = s.gating q := rfl
@[simp] theorem setPhase_fetching (s : State) (ph : PathPhase) (q : Fin 4) : (s.setPhase ph).fetching q = s.fetching q := rfl
@[simp] theorem setPhase_depositing (s : State) (ph : PathPhase) (q : Fin 4) : (s.setPhase ph).depositing q = s.depositing q := rfl

/-! ### `State.setBus` -/

@[simp] theorem setBus_start (s : State) (b : Option BusCycle) : (s.setBus b).start = s.start := rfl
@[simp] theorem setBus_arb (s : State) (b : Option BusCycle) : (s.setBus b).arb = s.arb := rfl
@[simp] theorem setBus_rings (s : State) (b : Option BusCycle) : (s.setBus b).rings = s.rings := rfl
@[simp] theorem setBus_streams (s : State) (b : Option BusCycle) : (s.setBus b).streams = s.streams := rfl
@[simp] theorem setBus_engines (s : State) (b : Option BusCycle) : (s.setBus b).engines = s.engines := rfl
@[simp] theorem setBus_ports (s : State) (b : Option BusCycle) : (s.setBus b).ports = s.ports := rfl
@[simp] theorem setBus_detectors (s : State) (b : Option BusCycle) : (s.setBus b).detectors = s.detectors := rfl
@[simp] theorem setBus_watches (s : State) (b : Option BusCycle) : (s.setBus b).watches = s.watches := rfl
@[simp] theorem setBus_cmd (s : State) (b : Option BusCycle) : (s.setBus b).cmd = s.cmd := rfl
@[simp] theorem setBus_events (s : State) (b : Option BusCycle) : (s.setBus b).events = s.events := rfl
@[simp] theorem setBus_time (s : State) (b : Option BusCycle) : (s.setBus b).time = s.time := rfl
@[simp] theorem setBus_mem (s : State) (b : Option BusCycle) : (s.setBus b).mem = s.mem := rfl
@[simp] theorem setBus_freeCount (s : State) (b : Option BusCycle) : (s.setBus b).freeCount = s.freeCount := rfl
@[simp] theorem setBus_pending (s : State) (b : Option BusCycle) : (s.setBus b).pending = s.pending := rfl

@[simp] theorem setBus_stream (s : State) (b : Option BusCycle) (m : Fin 8) : (s.setBus b).stream m = s.stream m := rfl
@[simp] theorem setBus_port (s : State) (b : Option BusCycle) (q : Fin 4) : (s.setBus b).port q = s.port q := rfl
@[simp] theorem setBus_detector (s : State) (b : Option BusCycle) (q : Fin 4) : (s.setBus b).detector q = s.detector q := rfl
@[simp] theorem setBus_watch (s : State) (b : Option BusCycle) (q : Fin 4) : (s.setBus b).watch q = s.watch q := rfl
@[simp] theorem setBus_ring (s : State) (b : Option BusCycle) (x : RingId) : (s.setBus b).ring x = s.ring x := rfl
@[simp] theorem setBus_live (s : State) (b : Option BusCycle) : (s.setBus b).live = s.live := rfl
@[simp] theorem setBus_controlBase (s : State) (b : Option BusCycle) : (s.setBus b).controlBase = s.controlBase := rfl
@[simp] theorem setBus_channels (s : State) (b : Option BusCycle) (q : Fin 4) : (s.setBus b).channels q = s.channels q := rfl
@[simp] theorem setBus_idleWord (s : State) (b : Option BusCycle) (q : Fin 4) : (s.setBus b).idleWord q = s.idleWord q := rfl
@[simp] theorem setBus_gating (s : State) (b : Option BusCycle) (q : Fin 4) : (s.setBus b).gating q = s.gating q := rfl
@[simp] theorem setBus_fetching (s : State) (b : Option BusCycle) (q : Fin 4) : (s.setBus b).fetching q = s.fetching q := rfl
@[simp] theorem setBus_depositing (s : State) (b : Option BusCycle) (q : Fin 4) : (s.setBus b).depositing q = s.depositing q := rfl

/-! ### `State.setUse` -/

@[simp] theorem setUse_start (s : State) (u : PortUse) : (s.setUse u).start = s.start := rfl
@[simp] theorem setUse_path (s : State) (u : PortUse) : (s.setUse u).path = s.path := rfl
@[simp] theorem setUse_rings (s : State) (u : PortUse) : (s.setUse u).rings = s.rings := rfl
@[simp] theorem setUse_streams (s : State) (u : PortUse) : (s.setUse u).streams = s.streams := rfl
@[simp] theorem setUse_engines (s : State) (u : PortUse) : (s.setUse u).engines = s.engines := rfl
@[simp] theorem setUse_ports (s : State) (u : PortUse) : (s.setUse u).ports = s.ports := rfl
@[simp] theorem setUse_detectors (s : State) (u : PortUse) : (s.setUse u).detectors = s.detectors := rfl
@[simp] theorem setUse_watches (s : State) (u : PortUse) : (s.setUse u).watches = s.watches := rfl
@[simp] theorem setUse_cmd (s : State) (u : PortUse) : (s.setUse u).cmd = s.cmd := rfl
@[simp] theorem setUse_events (s : State) (u : PortUse) : (s.setUse u).events = s.events := rfl
@[simp] theorem setUse_time (s : State) (u : PortUse) : (s.setUse u).time = s.time := rfl
@[simp] theorem setUse_mem (s : State) (u : PortUse) : (s.setUse u).mem = s.mem := rfl
@[simp] theorem setUse_freeCount (s : State) (u : PortUse) : (s.setUse u).freeCount = s.freeCount := rfl
@[simp] theorem setUse_pending (s : State) (u : PortUse) : (s.setUse u).pending = s.pending := rfl

@[simp] theorem setUse_stream (s : State) (u : PortUse) (m : Fin 8) : (s.setUse u).stream m = s.stream m := rfl
@[simp] theorem setUse_port (s : State) (u : PortUse) (q : Fin 4) : (s.setUse u).port q = s.port q := rfl
@[simp] theorem setUse_detector (s : State) (u : PortUse) (q : Fin 4) : (s.setUse u).detector q = s.detector q := rfl
@[simp] theorem setUse_watch (s : State) (u : PortUse) (q : Fin 4) : (s.setUse u).watch q = s.watch q := rfl
@[simp] theorem setUse_ring (s : State) (u : PortUse) (x : RingId) : (s.setUse u).ring x = s.ring x := rfl
@[simp] theorem setUse_live (s : State) (u : PortUse) : (s.setUse u).live = s.live := rfl
@[simp] theorem setUse_controlBase (s : State) (u : PortUse) : (s.setUse u).controlBase = s.controlBase := rfl
@[simp] theorem setUse_channels (s : State) (u : PortUse) (q : Fin 4) : (s.setUse u).channels q = s.channels q := rfl
@[simp] theorem setUse_idleWord (s : State) (u : PortUse) (q : Fin 4) : (s.setUse u).idleWord q = s.idleWord q := rfl
@[simp] theorem setUse_gating (s : State) (u : PortUse) (q : Fin 4) : (s.setUse u).gating q = s.gating q := rfl

/-! ### `State.raise` -/

@[simp] theorem raise_start (s : State) (e : Event) : (s.raise e).start = s.start := rfl
@[simp] theorem raise_path (s : State) (e : Event) : (s.raise e).path = s.path := rfl
@[simp] theorem raise_arb (s : State) (e : Event) : (s.raise e).arb = s.arb := rfl
@[simp] theorem raise_rings (s : State) (e : Event) : (s.raise e).rings = s.rings := rfl
@[simp] theorem raise_streams (s : State) (e : Event) : (s.raise e).streams = s.streams := rfl
@[simp] theorem raise_engines (s : State) (e : Event) : (s.raise e).engines = s.engines := rfl
@[simp] theorem raise_ports (s : State) (e : Event) : (s.raise e).ports = s.ports := rfl
@[simp] theorem raise_detectors (s : State) (e : Event) : (s.raise e).detectors = s.detectors := rfl
@[simp] theorem raise_watches (s : State) (e : Event) : (s.raise e).watches = s.watches := rfl
@[simp] theorem raise_cmd (s : State) (e : Event) : (s.raise e).cmd = s.cmd := rfl
@[simp] theorem raise_time (s : State) (e : Event) : (s.raise e).time = s.time := rfl
@[simp] theorem raise_mem (s : State) (e : Event) : (s.raise e).mem = s.mem := rfl
@[simp] theorem raise_freeCount (s : State) (e : Event) : (s.raise e).freeCount = s.freeCount := rfl
@[simp] theorem raise_pending (s : State) (e : Event) : (s.raise e).pending = s.pending := rfl

@[simp] theorem raise_stream (s : State) (e : Event) (m : Fin 8) : (s.raise e).stream m = s.stream m := rfl
@[simp] theorem raise_port (s : State) (e : Event) (q : Fin 4) : (s.raise e).port q = s.port q := rfl
@[simp] theorem raise_detector (s : State) (e : Event) (q : Fin 4) : (s.raise e).detector q = s.detector q := rfl
@[simp] theorem raise_watch (s : State) (e : Event) (q : Fin 4) : (s.raise e).watch q = s.watch q := rfl
@[simp] theorem raise_ring (s : State) (e : Event) (x : RingId) : (s.raise e).ring x = s.ring x := rfl
@[simp] theorem raise_live (s : State) (e : Event) : (s.raise e).live = s.live := rfl
@[simp] theorem raise_controlBase (s : State) (e : Event) : (s.raise e).controlBase = s.controlBase := rfl
@[simp] theorem raise_channels (s : State) (e : Event) (q : Fin 4) : (s.raise e).channels q = s.channels q := rfl
@[simp] theorem raise_idleWord (s : State) (e : Event) (q : Fin 4) : (s.raise e).idleWord q = s.idleWord q := rfl
@[simp] theorem raise_gating (s : State) (e : Event) (q : Fin 4) : (s.raise e).gating q = s.gating q := rfl
@[simp] theorem raise_fetching (s : State) (e : Event) (q : Fin 4) : (s.raise e).fetching q = s.fetching q := rfl
@[simp] theorem raise_depositing (s : State) (e : Event) (q : Fin 4) : (s.raise e).depositing q = s.depositing q := rfl

/-! ### What an update sets -/

@[simp] theorem setPhase_phase (s : State) (ph : PathPhase) : (s.setPhase ph).path.phase = ph := rfl
@[simp] theorem setPhase_bus (s : State) (ph : PathPhase) : (s.setPhase ph).path.bus = s.path.bus := rfl
@[simp] theorem setPhase_pd (s : State) (ph : PathPhase) : (s.setPhase ph).path.pd = s.path.pd := rfl
@[simp] theorem setBus_phase (s : State) (b : Option BusCycle) : (s.setBus b).path.phase = s.path.phase := rfl
@[simp] theorem setBus_bus (s : State) (b : Option BusCycle) : (s.setBus b).path.bus = b := rfl
@[simp] theorem setBus_pd (s : State) (b : Option BusCycle) : (s.setBus b).path.pd = s.path.pd := rfl
@[simp] theorem setUse_use (s : State) (u : PortUse) : (s.setUse u).arb.use = u := rfl
@[simp] theorem setUse_counts (s : State) (u : PortUse) : (s.setUse u).arb.counts = s.arb.counts := rfl
@[simp] theorem raise_line (s : State) (e : Event) : (s.raise e).events.line = s.events.line := by
  simp only [State.raise, EventUnit.raise]; split <;> rfl
@[simp] theorem raise_pulse (s : State) (e : Event) : (s.raise e).events.pulse = s.events.pulse := by
  simp only [State.raise, EventUnit.raise]; split <;> rfl

@[simp] theorem setStream_stream_same (s : State) (n : Fin 8) (e : StreamEntry) : (s.setStream n e).stream n = e := by
  simp [State.stream, State.setStream]

theorem setStream_stream_other (s : State) (n m : Fin 8) (e : StreamEntry) (h : m ≠ n) :
    (s.setStream n e).stream m = s.stream m := by
  have : n.val ≠ m.val := fun h' => h (Fin.ext h'.symm)
  simp [State.stream, State.setStream, this]

@[simp] theorem setPort_port_same (s : State) (p : Fin 4) (e : PortEntry) : (s.setPort p e).port p = e := by
  simp [State.port, State.setPort]

theorem setPort_port_other (s : State) (p q : Fin 4) (e : PortEntry) (h : q ≠ p) : (s.setPort p e).port q = s.port q := by
  have : p.val ≠ q.val := fun h' => h (Fin.ext h'.symm)
  simp [State.port, State.setPort, this]

@[simp] theorem setDetector_detector_same (s : State) (p : Fin 4) (e : DetectorEntry) :
    (s.setDetector p e).detector p = e := by
  simp [State.detector, State.setDetector]

theorem setDetector_detector_other (s : State) (p q : Fin 4) (e : DetectorEntry) (h : q ≠ p) :
    (s.setDetector p e).detector q = s.detector q := by
  have : p.val ≠ q.val := fun h' => h (Fin.ext h'.symm)
  simp [State.detector, State.setDetector, this]

@[simp] theorem setWatch_watch_same (s : State) (w : Fin 4) (e : WatchEntry) : (s.setWatch w e).watch w = e := by
  simp [State.watch, State.setWatch]

theorem setWatch_watch_other (s : State) (w q : Fin 4) (e : WatchEntry) (h : q ≠ w) : (s.setWatch w e).watch q = s.watch q := by
  have : w.val ≠ q.val := fun h' => h (Fin.ext h'.symm)
  simp [State.watch, State.setWatch, this]

@[simp] theorem setRing_ring_same (s : State) (r : RingId) (v : Ring) : (s.setRing r v).ring r = v := by
  cases r <;> simp [State.ring, State.setRing, RingTable.get, RingTable.set]

theorem setRing_ring_other (s : State) (r x : RingId) (v : Ring) (h : x ≠ r) : (s.setRing r v).ring x = s.ring x := by
  cases r <;> cases x <;> simp_all [State.ring, State.setRing, RingTable.get, RingTable.set]
  rename_i n m
  have : n.val ≠ m.val := fun h' => h (Fin.ext h'.symm)
  simp [this]

/-! ### A change to every entry -/

theorem map4_eq_map {α : Type} (f : α → α) (v : Vector α 4) : map4 f v = v.map f := by
  ext i hi
  have : i = 0 ∨ i = 1 ∨ i = 2 ∨ i = 3 := by omega
  rcases this with h | h | h | h <;> subst h <;> simp [map4]

theorem map8_eq_map {α : Type} (f : α → α) (v : Vector α 8) : map8 f v = v.map f := by
  ext i hi
  have : i = 0 ∨ i = 1 ∨ i = 2 ∨ i = 3 ∨ i = 4 ∨ i = 5 ∨ i = 6 ∨ i = 7 := by omega
  rcases this with h | h | h | h | h | h | h | h <;> subst h <;> simp [map8]

/-! ### Streams and their ports -/

@[simp] theorem portOf_txOf (p : Fin 4) : portOf (txOf p) = p := by
  apply Fin.ext; simp [portOf, txOf]

@[simp] theorem portOf_rxOf (p : Fin 4) : portOf (rxOf p) = p := by
  apply Fin.ext; simp only [portOf, rxOf]; omega

@[simp] theorem isTx_txOf (p : Fin 4) : isTx (txOf p) = true := by simp [isTx, txOf]

@[simp] theorem isTx_rxOf (p : Fin 4) : isTx (rxOf p) = false := by
  simp only [isTx, rxOf, beq_eq_false_iff_ne]; omega

theorem txOf_ne_rxOf (p q : Fin 4) : txOf p ≠ rxOf q := by
  intro h; have := congrArg Fin.val h; simp only [txOf, rxOf] at this; omega

theorem txOf_injective (p q : Fin 4) (h : txOf p = txOf q) : p = q := by
  have := congrArg Fin.val h; simp only [txOf] at this; exact Fin.ext (by omega)

theorem rxOf_injective (p q : Fin 4) (h : rxOf p = rxOf q) : p = q := by
  have := congrArg Fin.val h; simp only [rxOf] at this; exact Fin.ext (by omega)

end Sys2Proof.Machine
end

