-- ==== Sys2Proof/Laws/Ops.lean ====
section
/-! SUPPORT. The shared operations: for each, one lemma that says which parts of the state it leaves (so what it can change
is what the lemma does not name), and where it matters the form of its result. -/

namespace Sys2Proof.Machine

open Sys2Proof

/-! ### Part states -/

/-- In STARTING and OPERATING a meaning of this form acts. -/
theorem whenLive_live (f : State → State) (s : State) (h : s.live = true) : whenLive f s = .next (f s) := by
  simp [whenLive, h]

/-- In RESET and SAFE it leaves everything. -/
theorem whenLive_still (f : State → State) (s : State) (h : s.live = false) : whenLive f s = .next s := by
  simp [whenLive, h]

/-- It always answers a next state. -/
theorem whenLive_next (f : State → State) (s : State) : ∃ t, whenLive f s = .next t := ⟨_, rfl⟩

theorem live_iff (s : State) : s.live = true ↔ s.start.part = .starting ∨ s.start.part = .operating := by
  simp only [State.live]; split <;> simp_all

/-! ### Rings -/

theorem nextSlot_lt (count i : Nat) (h : 0 < count) : nextSlot count i < count := by
  simp only [nextSlot]; split <;> omega

@[simp] theorem filled_consumer (count : Nat) (r : Ring) : (r.filled count).consumer = r.consumer := rfl
@[simp] theorem filled_fill (count : Nat) (r : Ring) : (r.filled count).fill = r.fill + 1 := rfl
@[simp] theorem filled_producer (count : Nat) (r : Ring) : (r.filled count).producer = nextSlot count r.producer := rfl
@[simp] theorem consumed_producer (count : Nat) (r : Ring) : (r.consumed count).producer = r.producer := rfl
@[simp] theorem consumed_fill (count : Nat) (r : Ring) : (r.consumed count).fill = r.fill - 1 := rfl
@[simp] theorem consumed_consumer (count : Nat) (r : Ring) : (r.consumed count).consumer = nextSlot count r.consumer := rfl
@[simp] theorem consumed_lap (count : Nat) (r : Ring) : (r.consumed count).lap = r.lap := rfl

@[simp] theorem slotsFrom_length (count i n : Nat) : (slotsFrom count i n).length = n := by
  induction n generalizing i with
  | zero => rfl
  | succ n ih => simp [slotsFrom, ih]

/-- A fill changes the Ring Table only. -/
@[simp] theorem fillRing_keeps (s : State) (r : RingId) :
    (s.fillRing r).start = s.start ∧ (s.fillRing r).path = s.path ∧ (s.fillRing r).arb = s.arb ∧
    (s.fillRing r).streams = s.streams ∧ (s.fillRing r).engines = s.engines ∧ (s.fillRing r).ports = s.ports ∧
    (s.fillRing r).detectors = s.detectors ∧ (s.fillRing r).watches = s.watches ∧ (s.fillRing r).cmd = s.cmd ∧
    (s.fillRing r).events = s.events ∧ (s.fillRing r).time = s.time ∧ (s.fillRing r).mem = s.mem ∧
    (s.fillRing r).freeCount = s.freeCount ∧ (s.fillRing r).pending = s.pending :=
  ⟨rfl, rfl, rfl, rfl, rfl, rfl, rfl, rfl, rfl, rfl, rfl, rfl, rfl, rfl⟩

/-- A consumption changes the Ring Table only. -/
@[simp] theorem consumeRing_keeps (s : State) (r : RingId) :
    (s.consumeRing r).start = s.start ∧ (s.consumeRing r).path = s.path ∧ (s.consumeRing r).arb = s.arb ∧
    (s.consumeRing r).streams = s.streams ∧ (s.consumeRing r).engines = s.engines ∧ (s.consumeRing r).ports = s.ports ∧
    (s.consumeRing r).detectors = s.detectors ∧ (s.consumeRing r).watches = s.watches ∧ (s.consumeRing r).cmd = s.cmd ∧
    (s.consumeRing r).events = s.events ∧ (s.consumeRing r).time = s.time ∧ (s.consumeRing r).mem = s.mem ∧
    (s.consumeRing r).freeCount = s.freeCount ∧ (s.consumeRing r).pending = s.pending :=
  ⟨rfl, rfl, rfl, rfl, rfl, rfl, rfl, rfl, rfl, rfl, rfl, rfl, rfl, rfl⟩

/-! ### Events and faults -/

/-- The queue grows by one and takes the dropped count, or the dropped count grows. -/
theorem eventUnit_raise_cases (u : EventUnit) (e : Event) :
    (u.queue.length < 8 ∧ (u.raise e).queue = u.queue ++ [{ event := e, carried := u.dropped }] ∧ (u.raise e).dropped = 0) ∨
    (8 ≤ u.queue.length ∧ (u.raise e).queue = u.queue ∧ (u.raise e).dropped = satInc u.dropped) := by
  by_cases h : u.queue.length < 8
  · exact .inl ⟨h, by simp [EventUnit.raise, queueCapacity, h], by simp [EventUnit.raise, queueCapacity, h]⟩
  · exact .inr ⟨by omega, by simp [EventUnit.raise, queueCapacity, h], by simp [EventUnit.raise, queueCapacity, h]⟩

/-- A stream event is raised or filtered: the Event Unit is all that can change. -/
theorem raiseStreamAt_cases (s : State) (n : Fin 8) (enabled : Enables → Bool) (tag : Tag) (kind : EventKind) (a b c : Word) :
    s.raiseStreamAt n enabled tag kind a b c = s ∨ ∃ e, s.raiseStreamAt n enabled tag kind a b c = s.raise e := by
  simp only [State.raiseStreamAt]
  split
  · split
    · exact .inr ⟨_, rfl⟩
    · exact .inl rfl
  · exact .inl rfl

@[simp] theorem raiseStreamAt_keeps (s : State) (n : Fin 8) (enabled : Enables → Bool) (tag : Tag) (kind : EventKind)
    (a b c : Word) :
    let t := s.raiseStreamAt n enabled tag kind a b c
    t.start = s.start ∧ t.path = s.path ∧ t.arb = s.arb ∧ t.rings = s.rings ∧ t.streams = s.streams ∧
    t.engines = s.engines ∧ t.ports = s.ports ∧ t.detectors = s.detectors ∧ t.watches = s.watches ∧ t.cmd = s.cmd ∧
    t.time = s.time ∧ t.mem = s.mem ∧ t.freeCount = s.freeCount ∧ t.pending = s.pending ∧
    t.events.line = s.events.line ∧ t.events.pulse = s.events.pulse := by
  rcases raiseStreamAt_cases s n enabled tag kind a b c with h | ⟨e, h⟩ <;> simp [h]

@[simp] theorem raiseStream_keeps (s : State) (n : Fin 8) (enabled : Enables → Bool) (kind : EventKind) (a b c : Word) :
    let t := s.raiseStream n enabled kind a b c
    t.start = s.start ∧ t.path = s.path ∧ t.arb = s.arb ∧ t.rings = s.rings ∧ t.streams = s.streams ∧
    t.engines = s.engines ∧ t.ports = s.ports ∧ t.detectors = s.detectors ∧ t.watches = s.watches ∧ t.cmd = s.cmd ∧
    t.time = s.time ∧ t.mem = s.mem ∧ t.freeCount = s.freeCount ∧ t.pending = s.pending ∧
    t.events.line = s.events.line ∧ t.events.pulse = s.events.pulse :=
  raiseStreamAt_keeps s n enabled s.time.counter kind a b c

/-- A fault occurrence changes the stream's entry and the Event Unit only. -/
@[simp] theorem occur_keeps (s : State) (n : Fin 8) (f : StreamFault) (index : Nat) :
    let t := s.occur n f index
    t.start = s.start ∧ t.path = s.path ∧ t.arb = s.arb ∧ t.rings = s.rings ∧ t.engines = s.engines ∧ t.ports = s.ports ∧
    t.detectors = s.detectors ∧ t.watches = s.watches ∧ t.cmd = s.cmd ∧ t.time = s.time ∧ t.mem = s.mem ∧
    t.freeCount = s.freeCount ∧ t.pending = s.pending ∧ t.events.line = s.events.line ∧ t.events.pulse = s.events.pulse := by
  simp only [State.occur]
  split
  · simp
  · split <;> simp

/-- What an occurrence does to the streams: nothing to an ABSENT one, the flag and the count to another. -/
theorem occur_stream (s : State) (n m : Fin 8) (f : StreamFault) (index : Nat) :
    (s.occur n f index).stream m =
      if m = n ∧ (s.stream n).state ≠ .absent then (s.stream n).occurred f else s.stream m := by
  have hs : ∀ (t u : State) (k : Fin 8), t.streams = u.streams → t.stream k = u.stream k := fun t u k h => by
    simp [State.stream, h]
  simp only [State.occur]
  split
  · simp_all
  · have key : (s.setStream n ((s.stream n).occurred f)).stream m =
        if m = n then (s.stream n).occurred f else s.stream m := by
      by_cases h : m = n
      · subst h; simp
      · simp [h, setStream_stream_other]
    split
    · simp_all
    · rw [hs _ (s.setStream n ((s.stream n).occurred f)) m (by simp)]
      simp_all

/-! ### The Path Unit -/

/-- The memory cycle of an access changes PD, the RAM and the free index only. -/
@[simp] theorem ramAccess_keeps (s : State) (a : Access) :
    let t := s.ramAccess a
    t.start = s.start ∧ t.path.phase = s.path.phase ∧ t.path.bus = s.path.bus ∧ t.arb = s.arb ∧
    t.rings = s.rings ∧ t.streams = s.streams ∧ t.engines = s.engines ∧ t.ports = s.ports ∧ t.detectors = s.detectors ∧
    t.watches = s.watches ∧ t.cmd = s.cmd ∧ t.events = s.events ∧ t.time = s.time ∧ t.pending = s.pending := by
  simp only [State.ramAccess]
  split <;> simp [State.ramRead]

/-- A read changes no byte of RAM; a write stores its data in the lanes it selects. -/
theorem ramAccess_mem (s : State) (a : Access) :
    (s.ramAccess a).mem = match a.kind with
      | .read => s.mem
      | .write d => Memory.store s.mem a.addr a.high a.low d := by
  simp only [State.ramAccess]; split <;> simp_all [State.ramRead]

/-- The end of an access changes the Path Unit only. -/
@[simp] theorem endAccess_keeps (s : State) :
    let t := s.endAccess
    t.start = s.start ∧ t.path.pd = s.path.pd ∧ t.path.bus = s.path.bus ∧ t.arb = s.arb ∧ t.rings = s.rings ∧
    t.streams = s.streams ∧ t.engines = s.engines ∧ t.ports = s.ports ∧ t.detectors = s.detectors ∧
    t.watches = s.watches ∧ t.cmd = s.cmd ∧ t.events = s.events ∧ t.time = s.time ∧ t.mem = s.mem ∧
    t.freeCount = s.freeCount ∧ t.pending = s.pending :=
  ⟨rfl, rfl, rfl, rfl, rfl, rfl, rfl, rfl, rfl, rfl, rfl, rfl, rfl, rfl, rfl, rfl⟩

/-- A substitute changes the Path Unit only. -/
@[simp] theorem substitute_keeps (s : State) (w : Word) :
    let t := s.substitute w
    t.start = s.start ∧ t.path.pd = w ∧ t.path.bus = s.path.bus ∧ t.arb = s.arb ∧ t.rings = s.rings ∧
    t.streams = s.streams ∧ t.engines = s.engines ∧ t.ports = s.ports ∧ t.detectors = s.detectors ∧
    t.watches = s.watches ∧ t.cmd = s.cmd ∧ t.events = s.events ∧ t.time = s.time ∧ t.mem = s.mem ∧
    t.freeCount = s.freeCount ∧ t.pending = s.pending :=
  ⟨rfl, rfl, rfl, rfl, rfl, rfl, rfl, rfl, rfl, rfl, rfl, rfl, rfl, rfl, rfl, rfl⟩

/-- Forwarding changes the phase only. -/
@[simp] theorem forward_keeps (s : State) (a : Access) (e : Effect) :
    let t := s.forward a e
    t.start = s.start ∧ t.path.phase = .forwarded a e ∧ t.path.bus = s.path.bus ∧ t.path.pd = s.path.pd ∧
    t.arb = s.arb ∧ t.rings = s.rings ∧ t.streams = s.streams ∧ t.engines = s.engines ∧ t.ports = s.ports ∧
    t.detectors = s.detectors ∧ t.watches = s.watches ∧ t.cmd = s.cmd ∧ t.events = s.events ∧ t.time = s.time ∧
    t.mem = s.mem ∧ t.freeCount = s.freeCount ∧ t.pending = s.pending :=
  ⟨rfl, rfl, rfl, rfl, rfl, rfl, rfl, rfl, rfl, rfl, rfl, rfl, rfl, rfl, rfl, rfl, rfl⟩

/-- A release leaves the state as it is, or forwards the access that was held on that slot. -/
theorem releaseAt_cases (s : State) (r : RingId) (slot : Nat) :
    s.releaseAt r slot = s ∨
    ∃ h e, s.path.phase = .held h ∧ h.ring = r ∧ h.slot = slot ∧ h.releasable = true ∧
      s.judge h.access r h.slot h.word = .pass e ∧ s.releaseAt r slot = s.forward h.access e := by
  simp only [State.releaseAt]
  split
  · next h hp =>
    split
    · next hc =>
      split
      · next e he => exact .inr ⟨h, e, hp, hc.1, hc.2.1, hc.2.2, he, rfl⟩
      · exact .inl rfl
      · exact .inl rfl
    · exact .inl rfl
  · exact .inl rfl

@[simp] theorem releaseAt_keeps (s : State) (r : RingId) (slot : Nat) :
    let t := s.releaseAt r slot
    t.start = s.start ∧ t.path.bus = s.path.bus ∧ t.path.pd = s.path.pd ∧ t.arb = s.arb ∧ t.rings = s.rings ∧
    t.streams = s.streams ∧ t.engines = s.engines ∧ t.ports = s.ports ∧ t.detectors = s.detectors ∧
    t.watches = s.watches ∧ t.cmd = s.cmd ∧ t.events = s.events ∧ t.time = s.time ∧ t.mem = s.mem ∧
    t.freeCount = s.freeCount ∧ t.pending = s.pending := by
  rcases releaseAt_cases s r slot with h | ⟨_, _, _, _, _, _, _, h⟩ <;> simp [h]

/-- An expiry ends the access; the stream's entry and the Event Unit are what it can change besides. -/
@[simp] theorem expire_keeps (s : State) (a : Access) (r : RingId) (slot : Nat) :
    let t := s.expire a r slot
    t.start = s.start ∧ t.path.bus = s.path.bus ∧ t.arb = s.arb ∧ t.rings = s.rings ∧ t.engines = s.engines ∧
    t.ports = s.ports ∧ t.detectors = s.detectors ∧ t.watches = s.watches ∧ t.cmd = s.cmd ∧ t.time = s.time ∧
    t.mem = s.mem ∧ t.freeCount = s.freeCount ∧ t.pending = s.pending := by
  simp only [State.expire]
  split <;> split <;> simp [State.raisePart]

/-- The Command Unit takes a record or not: its state is all that can change. -/
theorem takeCommand_cases (s : State) :
    (s.cmd.state = .waiting ∧ s.start.part = .operating ∧ 1 ≤ (s.ring .command).fill ∧
      s.takeCommand = { s with cmd := { s.cmd with state := .reading (s.ring .command).consumer } }) ∨
    s.takeCommand = s := by
  simp only [State.takeCommand]
  split
  · next h =>
    split
    · next hc => exact .inl ⟨h, hc.1, hc.2, rfl⟩
    · exact .inr rfl
  · exact .inr rfl

@[simp] theorem takeCommand_keeps (s : State) :
    let t := s.takeCommand
    t.start = s.start ∧ t.path = s.path ∧ t.arb = s.arb ∧ t.rings = s.rings ∧ t.streams = s.streams ∧
    t.engines = s.engines ∧ t.ports = s.ports ∧ t.detectors = s.detectors ∧ t.watches = s.watches ∧
    t.cmd.staged = s.cmd.staged ∧ t.events = s.events ∧ t.time = s.time ∧ t.mem = s.mem ∧ t.freeCount = s.freeCount ∧
    t.pending = s.pending := by
  rcases takeCommand_cases s with ⟨_, _, _, h⟩ | h <;> simp [h]

/-- The effect of a completed access: rings, the stream faulted, the Event Unit, the Command Unit. -/
@[simp] theorem makeEffect_keeps (s : State) (e : Effect) :
    let t := s.makeEffect e
    t.start = s.start ∧ t.path = s.path ∧ t.arb = s.arb ∧ t.engines = s.engines ∧ t.ports = s.ports ∧
    t.detectors = s.detectors ∧ t.watches = s.watches ∧ t.cmd.staged = s.cmd.staged ∧ t.time = s.time ∧ t.mem = s.mem ∧
    t.freeCount = s.freeCount ∧ t.pending = s.pending := by
  cases e with
  | post r => cases r <;> simp [State.makeEffect]
  | _ => simp [State.makeEffect]

/-- The claims on a ring drop: the judgement of a forwarded access and the standing of a burst. -/
@[simp] theorem dropClaims_keeps (s : State) (n : Fin 8) :
    let t := s.dropClaims n
    t.start = s.start ∧ t.path.bus = s.path.bus ∧ t.path.pd = s.path.pd ∧ t.arb.counts = s.arb.counts ∧
    t.rings = s.rings ∧ t.streams = s.streams ∧ t.engines = s.engines ∧ t.ports = s.ports ∧ t.detectors = s.detectors ∧
    t.watches = s.watches ∧ t.cmd = s.cmd ∧ t.events = s.events ∧ t.time = s.time ∧ t.mem = s.mem ∧
    t.freeCount = s.freeCount ∧ t.pending = s.pending :=
  ⟨rfl, rfl, rfl, rfl, rfl, rfl, rfl, rfl, rfl, rfl, rfl, rfl, rfl, rfl, rfl, rfl⟩

/-- A forwarded access judged against the ring makes no ring effect any more (R35). -/
theorem dropClaims_phase (s : State) (n : Fin 8) :
    (s.dropClaims n).path.phase = match s.path.phase with
      | .forwarded a e => if e.onStream n then .forwarded a .none else .forwarded a e
      | ph => ph := rfl

/-- Nor does an engine burst granted against it. -/
theorem dropClaims_use (s : State) (n : Fin 8) :
    (s.dropClaims n).arb.use = match s.arb.use with
      | .fetch b => if txOf b.port = n then .fetch { b with ringStands := false } else .fetch b
      | .deposit b => if rxOf b.port = n then .deposit { b with ringStands := false } else .deposit b
      | u => u := rfl

/-! ### Runs -/

/-- The end of a run: the stream's entry, the standing of its burst, and the Event Unit. -/
@[simp] theorem endRun_keeps (s : State) (n : Fin 8) (why : EndReason) :
    let t := s.endRun n why
    t.start = s.start ∧ t.path = s.path ∧ t.arb.counts = s.arb.counts ∧ t.rings = s.rings ∧ t.engines = s.engines ∧
    t.ports = s.ports ∧ t.detectors = s.detectors ∧ t.watches = s.watches ∧ t.cmd = s.cmd ∧ t.time = s.time ∧
    t.mem = s.mem ∧ t.freeCount = s.freeCount ∧ t.pending = s.pending := by
  simp [State.endRun]

/-- The stream whose run ends is IDLE; every other entry is as before. -/
theorem endRun_stream (s : State) (n m : Fin 8) (why : EndReason) :
    (s.endRun n why).stream m =
      if m = n then { s.stream n with state := .idle, stopping := none, starvation := none } else s.stream m := by
  have hs : ∀ (t u : State) (k : Fin 8), t.streams = u.streams → t.stream k = u.stream k := fun t u k h => by
    simp [State.stream, h]
  simp only [State.endRun]
  rw [hs _ ((s.setUse (s.arb.use.afterRun n)).setStream n
    { s.stream n with state := .idle, stopping := none, starvation := none }) m (by simp)]
  by_cases h : m = n
  · subst h; simp
  · simp [h, setStream_stream_other]

@[simp] theorem closeSegment_keeps (s : State) (p : Fin 4) (tag : Tag) :
    let t := s.closeSegment p tag
    t.start = s.start ∧ t.path = s.path ∧ t.arb = s.arb ∧ t.rings = s.rings ∧ t.engines = s.engines ∧
    t.ports = s.ports ∧ t.detectors = s.detectors ∧ t.watches = s.watches ∧ t.cmd = s.cmd ∧ t.time = s.time ∧
    t.mem = s.mem ∧ t.freeCount = s.freeCount ∧ t.pending = s.pending := by
  simp [State.closeSegment]

@[simp] theorem openSegment_keeps (s : State) (p : Fin 4) (tag : Tag) :
    let t := s.openSegment p tag
    t.start = s.start ∧ t.path = s.path ∧ t.arb = s.arb ∧ t.rings = s.rings ∧ t.engines = s.engines ∧
    t.ports = s.ports ∧ t.detectors = s.detectors ∧ t.watches = s.watches ∧ t.cmd = s.cmd ∧ t.time = s.time ∧
    t.mem = s.mem ∧ t.freeCount = s.freeCount ∧ t.pending = s.pending := by
  simp [State.openSegment]

@[simp] theorem closeGate_keeps (s : State) (p : Fin 4) :
    let t := s.closeGate p
    t.start = s.start ∧ t.path = s.path ∧ t.arb = s.arb ∧ t.rings = s.rings ∧ t.engines = s.engines ∧
    t.detectors = s.detectors ∧ t.watches = s.watches ∧ t.cmd = s.cmd ∧ t.events = s.events ∧ t.time = s.time ∧
    t.mem = s.mem ∧ t.freeCount = s.freeCount ∧ t.pending = s.pending := by
  simp only [State.closeGate]
  split <;> simp [State.endMark, State.placeMark]

theorem processHead_keeps (p : Fin 4) (f : List RxEntry) (s : State) :
    let t := State.processHead p f s
    t.start = s.start ∧ t.path = s.path ∧ t.arb = s.arb ∧ t.rings = s.rings ∧ t.engines = s.engines ∧
    t.detectors = s.detectors ∧ t.watches = s.watches ∧ t.cmd = s.cmd ∧ t.time = s.time ∧ t.mem = s.mem ∧
    t.freeCount = s.freeCount ∧ t.pending = s.pending := by
  induction f generalizing s with
  | nil => simp [State.processHead]
  | cons x f ih =>
    cases x with
    | mark kind tag =>
      have h := ih ((s.setPort p { s.port p with rxFifo := f }).processMark p kind tag)
      cases kind <;> simp_all [State.processHead, State.processMark]
    | _ => simp [State.processHead]

@[simp] theorem processMarks_keeps (s : State) (p : Fin 4) :
    let t := s.processMarks p
    t.start = s.start ∧ t.path = s.path ∧ t.arb = s.arb ∧ t.rings = s.rings ∧ t.engines = s.engines ∧
    t.detectors = s.detectors ∧ t.watches = s.watches ∧ t.cmd = s.cmd ∧ t.time = s.time ∧ t.mem = s.mem ∧
    t.freeCount = s.freeCount ∧ t.pending = s.pending := by
  have h := processHead_keeps p (s.port p).rxFifo s
  simp only [State.processMarks]
  split
  · split <;> simp_all
  · split <;> simp_all
  · simp

@[simp] theorem checkLimit_keeps (s : State) (n : Fin 8) :
    let t := s.checkLimit n
    t.start = s.start ∧ t.path = s.path ∧ t.arb = s.arb ∧ t.rings = s.rings ∧ t.engines = s.engines ∧
    t.detectors = s.detectors ∧ t.watches = s.watches ∧ t.cmd = s.cmd ∧ t.time = s.time ∧ t.mem = s.mem ∧
    t.freeCount = s.freeCount ∧ t.pending = s.pending := by
  simp only [State.checkLimit]
  split
  · simp
  · split
    · split
      · simp
      · split <;> simp
    · simp

@[simp] theorem throwOutTx_keeps (s : State) (p : Fin 4) :
    let t := s.throwOutTx p
    t.start = s.start ∧ t.path = s.path ∧ t.arb = s.arb ∧ t.rings = s.rings ∧ t.engines = s.engines ∧
    t.detectors = s.detectors ∧ t.watches = s.watches ∧ t.cmd = s.cmd ∧ t.events = s.events ∧ t.time = s.time ∧
    t.mem = s.mem ∧ t.freeCount = s.freeCount ∧ t.pending = s.pending := by
  simp [State.throwOutTx]

@[simp] theorem throwOutRx_keeps (s : State) (p : Fin 4) :
    let t := s.throwOutRx p
    t.start = s.start ∧ t.path = s.path ∧ t.arb = s.arb ∧ t.rings = s.rings ∧ t.engines = s.engines ∧
    t.detectors = s.detectors ∧ t.watches = s.watches ∧ t.cmd = s.cmd ∧ t.events = s.events ∧ t.time = s.time ∧
    t.mem = s.mem ∧ t.freeCount = s.freeCount ∧ t.pending = s.pending := by
  simp [State.throwOutRx]

/-- A run cut at once: its entry, its FIFO, the standing of its burst, and the Event Unit. -/
@[simp] theorem cutRun_keeps (s : State) (n : Fin 8) (why : EndReason) :
    let t := s.cutRun n why
    t.start = s.start ∧ t.path = s.path ∧ t.arb.counts = s.arb.counts ∧ t.rings = s.rings ∧ t.engines = s.engines ∧
    t.detectors = s.detectors ∧ t.watches = s.watches ∧ t.cmd = s.cmd ∧ t.time = s.time ∧ t.mem = s.mem ∧
    t.freeCount = s.freeCount ∧ t.pending = s.pending := by
  simp only [State.cutRun]
  split
  · simp
  · simp only [State.closeOpenSegment]
    split <;> simp

end Sys2Proof.Machine
end

