-- ==== Sys2Proof/Laws/Boundary.lean ====
section
/-! SUPPORT. The operations of a frame boundary in the words of the statements: the places, the padding, the marks at the head of an
RX FIFO. -/

namespace Sys2Proof.Machine

open Sys2Proof Sys2Proof.Claims

theorem padReserved_eq_paddedWith (idle : Word) (f : List RxEntry) : padReserved idle f = paddedWith idle f := by
  induction f with
  | nil => rfl
  | cons x f ih => cases x <;> simp [padReserved, paddedWith, ih] <;> rfl

theorem reservedFrom_eq_map (c n : Nat) : reservedFrom c n = (List.range' c n).map .reserved := by
  induction n generalizing c with
  | zero => rfl
  | succ n ih => simp [reservedFrom, ih, List.range'_succ]

/-- The places of a frame. -/
theorem reservedFrom_zero (n : Nat) : reservedFrom 0 n = (List.range n).map .reserved := by
  rw [reservedFrom_eq_map, List.range_eq_range']

/-- Putting back what a stream's entry holds. -/
theorem setStream_self (s : State) (n : Fin 8) : s.setStream n (s.stream n) = s := by simp [State.setStream, State.stream]

/-- Putting back what a port's entry holds. -/
theorem setPort_self (s : State) (p : Fin 4) : s.setPort p (s.port p) = s := by simp [State.setPort, State.port]

/-- The outcome of mark processing: the FIFO, the segment record and the event queue, and nothing else. -/
def withMarkWork (s : State) (p : Fin 4) (m : MarkWork) : State :=
  ({ s with events := m.events }.setStream (rxOf p)
    { s.stream (rxOf p) with segOpen := m.segOpen, segWords := m.segWords }).setPort p { s.port p with rxFifo := m.fifo }

theorem withMarkWork_self (s : State) (p : Fin 4) :
    withMarkWork s p ⟨(s.port p).rxFifo, (s.stream (rxOf p)).segOpen, (s.stream (rxOf p)).segWords, s.events⟩ = s := by
  have h1 : ({ s with events := s.events } : State) = s := rfl
  simp only [withMarkWork]
  rw [show ({ s.stream (rxOf p) with segOpen := (s.stream (rxOf p)).segOpen, segWords := (s.stream (rxOf p)).segWords } :
    StreamEntry) = s.stream (rxOf p) from rfl, h1, setStream_self]
  exact setPort_self s p

/-- Of two outcomes the later one stands. -/
theorem withMarkWork_twice (s : State) (p : Fin 4) (m m' : MarkWork) :
    withMarkWork (withMarkWork s p m) p m' = withMarkWork s p m' := by
  simp [withMarkWork, State.setStream, State.setPort, State.stream, State.port]

@[simp] theorem withMarkWork_stream (s : State) (p : Fin 4) (m : MarkWork) : (withMarkWork s p m).stream (rxOf p) =
    { s.stream (rxOf p) with segOpen := m.segOpen, segWords := m.segWords } := by
  simp [withMarkWork, State.stream, State.setStream, State.setPort]

@[simp] theorem withMarkWork_port (s : State) (p : Fin 4) (m : MarkWork) :
    (withMarkWork s p m).port p = { s.port p with rxFifo := m.fifo } := by simp [withMarkWork, State.port, State.setPort,
      State.setStream]

@[simp] theorem withMarkWork_ring (s : State) (p : Fin 4) (m : MarkWork) (r : RingId) :
    (withMarkWork s p m).ring r = s.ring r := rfl

@[simp] theorem withMarkWork_events (s : State) (p : Fin 4) (m : MarkWork) : (withMarkWork s p m).events = m.events := rfl

/-- A stream event, under the enable the statements name. -/
theorem raiseStreamAt_eq (s : State) (n : Fin 8) (enabled : Enables → Bool) (tag : Tag) (kind : EventKind) (a b c : Word)
    (ds : StreamDef) (ha : (s.stream n).active = some ds) :
    s.raiseStreamAt n enabled tag kind a b c =
      { s with events := raisedIf (enabled ds.enables) s.events ⟨kind, BitVec.ofNat 8 n.val, a, b, c, tag⟩ } := by
  simp only [State.raiseStreamAt, ha, raisedIf]
  split <;> rfl

/-- One mark leaves the FIFO and is processed. -/
theorem processMark_eq (p : Fin 4) (kind : MarkKind) (tag : Tag) (f : List RxEntry) (s : State) (ds : StreamDef)
    (ha : (s.stream (rxOf p)).active = some ds) :
    (s.setPort p { s.port p with rxFifo := f }).processMark p kind tag = withMarkWork s p
      ⟨f, decide (kind = .segStart), if kind = .segStart then 0 else (s.stream (rxOf p)).segWords,
        raisedIf ds.enables.segment s.events
          ⟨if kind = .segStart then .segmentStart else .segmentEnd, BitVec.ofNat 8 (rxOf p).val,
            BitVec.ofNat 16 (s.ring (.stream (rxOf p))).producer, (s.ring (.stream (rxOf p))).lap.getD 0,
            if kind = .segStart then 0 else BitVec.ofNat 16 (s.stream (rxOf p)).segWords, tag⟩⟩ := by
  have ha' : ((s.setPort p { s.port p with rxFifo := f }).stream (rxOf p)).active = some ds := ha
  cases kind
  · simp only [State.processMark, State.openSegment]
    rw [raiseStreamAt_eq _ _ _ _ _ _ _ _ ds ha']
    rfl
  · simp only [State.processMark, State.closeSegment]
    rw [raiseStreamAt_eq _ _ _ _ _ _ _ _ ds ha']
    rfl

/-- All that the marks at the head do (R69, R123, R124). -/
theorem processHead_eq (p : Fin 4) (f : List RxEntry) (s : State) (ds : StreamDef) (hf : (s.port p).rxFifo = f)
    (ha : (s.stream (rxOf p)).active = some ds) :
    State.processHead p f s = withMarkWork s p (marksProcessed ds.enables.segment (rxOf p) (s.ring (.stream (rxOf p))) f
      (s.stream (rxOf p)).segOpen (s.stream (rxOf p)).segWords s.events) := by
  induction f generalizing s with
  | nil => simp only [State.processHead, marksProcessed]; rw [← hf]; exact (withMarkWork_self s p).symm
  | cons x f ih =>
    cases x with
    | sample w c => simp only [State.processHead, marksProcessed]; rw [← hf]; exact (withMarkWork_self s p).symm
    | reserved c => simp only [State.processHead, marksProcessed]; rw [← hf]; exact (withMarkWork_self s p).symm
    | mark kind tag =>
      simp only [State.processHead]
      rw [processMark_eq p kind tag f s ds ha, ih _ (by simp) (by simpa using ha), withMarkWork_twice]
      cases kind <;> simp [marksProcessed]

theorem depositUnderWay_eq (s : State) (p : Fin 4) : depositUnderWay s p = s.depositing p := rfl

theorem fetchUnderWay_eq (s : State) (p : Fin 4) : fetchUnderWay s p = s.fetching p := rfl

/-- Marks are processed in RUNNING and STOPPING, and wait for the end of a deposit burst of the stream (R69). -/
theorem processMarks_eq (s : State) (p : Fin 4) (ds : StreamDef) (ha : (s.stream (rxOf p)).active = some ds)
    (hs : (s.stream (rxOf p)).state = .running ∨ (s.stream (rxOf p)).state = .stopping) :
    s.processMarks p = if depositUnderWay s p then s else withMarkWork s p
      (marksProcessed ds.enables.segment (rxOf p) (s.ring (.stream (rxOf p))) (s.port p).rxFifo
        (s.stream (rxOf p)).segOpen (s.stream (rxOf p)).segWords s.events) := by
  rw [← processHead_eq p _ s ds rfl ha]
  rcases hs with h | h <;> (simp only [State.processMarks, h]; rfl)

/-- What the statements say of the receive side after its marks, for a step that ends in them and has moved no receive ring and no
deposit burst. -/
theorem processMarks_leaves (s u : State) (p : Fin 4) (ds : StreamDef) (ha : (u.stream (rxOf p)).active = some ds)
    (hs : (u.stream (rxOf p)).state = .running ∨ (u.stream (rxOf p)).state = .stopping)
    (hd : depositUnderWay u p = depositUnderWay s p) (hr : u.ring (.stream (rxOf p)) = s.ring (.stream (rxOf p))) :
    LeftWithMarksDone s (u.processMarks p) p ds ⟨u.stream (rxOf p), (u.port p).rxFifo, (u.port p).admitted, u.events⟩ := by
  rw [processMarks_eq u p ds ha hs, hd, hr]
  simp only [LeftWithMarksDone]
  split
  · exact ⟨rfl, rfl, rfl, rfl⟩
  · exact ⟨withMarkWork_stream .., by simp, by simp, rfl⟩

/-- What one offered frame does, to the receive side alone (R99). -/
def withRxSide (s : State) (p : Fin 4) (x : RxSide) : State :=
  ({ s with events := x.events }.setStream (rxOf p) x.entry).setPort p { s.port p with rxFifo := x.fifo, admitted := x.admitted }

@[simp] theorem withRxSide_stream (s : State) (p : Fin 4) (x : RxSide) : (withRxSide s p x).stream (rxOf p) = x.entry := by
  simp [withRxSide, State.stream, State.setStream, State.setPort]

@[simp] theorem withRxSide_port (s : State) (p : Fin 4) (x : RxSide) :
    (withRxSide s p x).port p = { s.port p with rxFifo := x.fifo, admitted := x.admitted } := by
  simp [withRxSide, State.port, State.setPort, State.setStream]

@[simp] theorem withRxSide_channels (s : State) (p : Fin 4) (x : RxSide) : (withRxSide s p x).channels p = s.channels p := by
  simp [State.channels]

@[simp] theorem withRxSide_gating (s : State) (p q : Fin 4) (x : RxSide) : (withRxSide s p x).gating q = s.gating q := rfl

/-- Of two outcomes the later one stands. -/
theorem withRxSide_twice (s : State) (p : Fin 4) (x y : RxSide) : withRxSide (withRxSide s p x) p y = withRxSide s p y := by
  simp [withRxSide, State.setStream, State.setPort, State.port]

theorem withRxSide_self (s : State) (p : Fin 4) :
    withRxSide s p ⟨s.stream (rxOf p), (s.port p).rxFifo, (s.port p).admitted, s.events⟩ = s := by
  have h1 : ({ s with events := s.events } : State) = s := rfl
  simp only [withRxSide]
  rw [h1, setStream_self]
  exact setPort_self s p

/-- Padding and realigning give the state the statements call repaired (R105, R106). -/
theorem repairs_eq (s : State) (p : Fin 4) (d : PortDef) (ha : (s.port p).active = some d) :
    (s.pad p).realign p = earlySyncRepaired s p d := by
  have hi : s.idleWord p = d.idle := by simp [State.idleWord, ha]
  have hp : s.pad p = s.setPort p { s.port p with
      rxFifo := if (s.port p).admitted then paddedWith d.idle (s.port p).rxFifo else (s.port p).rxFifo, admitted := false } := by
    simp only [State.pad, padReserved_eq_paddedWith, hi]
    split
    · rfl
    · next h =>
      have hq : ({ s.port p with rxFifo := (s.port p).rxFifo, admitted := false } : PortEntry) = s.port p := by
        rw [← Bool.not_eq_true _ |>.mp h]
      rw [hq, setPort_self]
  have hc : (s.pad p).channels p = d.channels := by simp [hp, State.channels, ha]
  rw [hp] at hc ⊢
  simp only [State.realign, hc, earlySyncRepaired, setPort_stream, setPort_port_same]
  split
  · next h =>
    have hk : min (d.channels - (s.stream (txOf p)).k) (s.port p).txFifo.length = d.channels - (s.stream (txOf p)).k ↔
        ¬ (s.stream (txOf p)).k + min (d.channels - (s.stream (txOf p)).k) (s.port p).txFifo.length < d.channels := by omega
    by_cases hw : (s.stream (txOf p)).k + min (d.channels - (s.stream (txOf p)).k) (s.port p).txFifo.length < d.channels
    · simp only [hk, hw, not_true_eq_false, if_false, if_true]
      simp [State.setStream, State.setPort]
    · simp only [hk, hw, not_false_eq_true, if_false, if_true, h.2.1]
      simp [State.setStream, State.setPort]
  · rfl

theorem placeCount_eq (f : List RxEntry) : placeCount f = (f.filter RxEntry.isPlace).length := List.countP_eq_length_filter

/-- An OVERRUN of a present stream, and the frame is not admitted (R73, R101). -/
theorem occur_overrun_eq (s : State) (p : Fin 4) (ds : StreamDef) (hs : (s.stream (rxOf p)).state = .running)
    (ha : (s.stream (rxOf p)).active = some ds) :
    s.occur (rxOf p) .overrun 0 = withRxSide s p
      ⟨{ s.stream (rxOf p) with flags := (s.stream (rxOf p)).flags.set 1 true
                                counts := (s.stream (rxOf p)).counts.set 1 (satInc ((s.stream (rxOf p)).faultCount .overrun)) },
        (s.port p).rxFifo, (s.port p).admitted,
        raisedIf (ds.enables.fault && !(s.stream (rxOf p)).flag .overrun) s.events
          ⟨.fault, BitVec.ofNat 8 (rxOf p).val, 2, 0, BitVec.ofNat 16 (satInc ((s.stream (rxOf p)).faultCount .overrun)),
            s.time.counter⟩⟩ := by
  have ha' : ((s.setStream (rxOf p) ((s.stream (rxOf p)).occurred .overrun)).stream (rxOf p)).active = some ds := by
    simpa [StreamEntry.occurred] using ha
  have hab : (s.stream (rxOf p)).state ≠ .absent := by simp [hs]
  have hw : ∀ (u : EventUnit) (e : StreamEntry), ({ s with events := u }.setStream (rxOf p) e) = withRxSide s p
      ⟨e, (s.port p).rxFifo, (s.port p).admitted, u⟩ := fun u e =>
    (setPort_self ({ s with events := u }.setStream (rxOf p) e) p).symm
  rw [← hw]
  simp only [State.occur, hab, if_false]
  split
  · next h => simp only [h, Bool.not_true, Bool.and_false, raisedIf]; rfl
  · next h =>
    simp only [State.raiseStream]
    rw [raiseStreamAt_eq _ _ _ _ _ _ _ _ ds ha']
    simp only [h, Bool.not_false, Bool.and_true, raisedIf]
    rfl

/-- A frame admitted through an open gate, and the run limit (R60, R62, R99, R121). -/
theorem admitFrame_eq (s : State) (p : Fin 4) (ds : StreamDef) (hs : (s.stream (rxOf p)).state = .running)
    (ha : (s.stream (rxOf p)).active = some ds)
    (hg : (s.stream (rxOf p)).gateOpen = true) :
    let e := s.stream (rxOf p)
    let total := e.admitted + s.channels p
    let taken : StreamEntry := { e with admitted := total }
    let fifo := (s.port p).rxFifo ++ (List.range (s.channels p)).map .reserved
    s.admitFrame p = withRxSide s p (
      if e.limit ≠ some total then ⟨taken, fifo, true, s.events⟩
      else match e.extension with
        | some f => ⟨{ taken with extension := none, limit := some (total + f * s.channels p) }, fifo, true,
            raisedIf ds.enables.lifecycle s.events ⟨.runExtended, BitVec.ofNat 8 (rxOf p).val, BitVec.ofNat 16 f,
              BitVec.ofNat 16 (min 65535 ((total + f * s.channels p - e.deposited) / s.channels p)), 0, s.time.counter⟩⟩
        | none =>
          if s.gating p then ⟨{ taken with limitReached := true, gateOpen := false }, fifo ++ [.mark .segEnd s.time.counter], true,
            s.events⟩
          else ⟨{ taken with limitReached := true }, fifo, true, s.events⟩) := by
  intro e total taken fifo
  have hadm : s.admitFrame p = (withRxSide s p ⟨taken, fifo, true, s.events⟩).checkLimit (rxOf p) := by
    simp only [State.admitFrame, reservedFrom_zero]; rfl
  have hset : ∀ (x : RxSide) (e' : StreamEntry), (withRxSide s p x).setStream (rxOf p) e' =
      withRxSide s p { x with entry := e' } := fun x e' => by simp [withRxSide, State.setStream, State.setPort]
  rw [hadm]
  simp only [State.checkLimit, withRxSide_stream, StreamEntry.wordsIn, isTx_rxOf, portOf_rxOf, taken, total, e]
  rcases hl : (s.stream (rxOf p)).limit with _ | l
  · simp
  · by_cases ht : (s.stream (rxOf p)).admitted + s.channels p = l
    · subst ht
      simp only [if_true, ne_eq, not_true_eq_false, if_false, Bool.false_eq_true]
      rcases hx : (s.stream (rxOf p)).extension with _ | f
      · simp only [hset, State.closeGate, withRxSide_gating, withRxSide_stream, hg, Bool.and_true]
        split
        · simp only [State.endMark, State.placeMark, withRxSide_port]
          simp [withRxSide, State.setStream, State.setPort, State.stream, State.port]
        · rfl
      · simp only [hset, State.raiseStream]
        rw [raiseStreamAt_eq _ _ _ _ _ _ _ _ ds (by simpa using ha)]
        simp only [StreamEntry.framesRemaining, StreamEntry.wordsOut, isTx_rxOf, withRxSide_channels, hs]
        rfl
    · have : ¬ l = (s.stream (rxOf p)).admitted + s.channels p := fun h => ht h.symm
      simp [ht, this]

/-- Admission of a frame (R99 to R101, R60, R62, R121). -/
theorem admission_eq (s : State) (p : Fin 4) (ds : StreamDef) (hs : (s.stream (rxOf p)).state = .running)
    (ha : (s.stream (rxOf p)).active = some ds) (hf : (s.port p).admitted = false) :
    s.admission p = withRxSide s p (frameOffered ds (s.channels p) (rxOf p) (s.gating p) s.time.counter
      ⟨s.stream (rxOf p), (s.port p).rxFifo, false, s.events⟩) := by
  have hheld : ((s.stream (rxOf p)).heldBack .overrun = true) ↔ (ds.resume = .cleared ∧ (s.stream (rxOf p)).flag .overrun = true) := by
    simp [StreamEntry.heldBack, ha]
  have hself := withRxSide_self s p
  rw [hf] at hself
  have hover := occur_overrun_eq s p ds hs ha
  rw [hf] at hover
  have hadm : s.admission p =
      if (s.stream (rxOf p)).gateOpen = false ∨ (s.stream (rxOf p)).limitReached = true then s
      else if 32 < placeCount (s.port p).rxFifo + s.channels p then s.occur (rxOf p) .overrun 0
      else if (s.stream (rxOf p)).heldBack .overrun then s.occur (rxOf p) .overrun 0
      else s.admitFrame p := by simp only [State.admission, hs, if_true, fifoPlaces]; rfl
  rw [hadm]
  simp only [frameOffered, ← placeCount_eq]
  by_cases h1 : (s.stream (rxOf p)).gateOpen = false ∨ (s.stream (rxOf p)).limitReached = true
  · rw [if_pos h1, if_pos h1]; exact hself.symm
  · rw [if_neg h1, if_neg h1]
    by_cases h2 : 32 < placeCount (s.port p).rxFifo + s.channels p
    · rw [if_pos h2, if_pos (.inl h2)]; exact hover
    · rw [if_neg h2]
      by_cases h3 : (s.stream (rxOf p)).heldBack .overrun = true
      · rw [if_pos h3, if_pos (.inr (hheld.mp h3))]; exact hover
      · rw [if_neg h3, if_neg (by simp only [h2, false_or]; exact fun h => h3 (hheld.mpr h))]
        simp only [not_or, Bool.not_eq_false, Bool.not_eq_true] at h1
        exact admitFrame_eq s p ds hs ha h1.1

/-- The event of a block end (R116). -/
theorem raiseSignal_eq (s : State) (p : Fin 4) (old new : DetectorState) (peak : Nat) (ds : StreamDef)
    (ha : (s.stream (rxOf p)).active = some ds) :
    s.raiseSignal p old new peak =
      { s with events := signalRaised ds.enables (rxOf p) old new peak s.time.counter s.events } := by
  have hr := fun (enabled : Enables → Bool) (kind : EventKind) =>
    raiseStreamAt_eq s (rxOf p) enabled s.time.counter kind (BitVec.ofNat 16 peak) 0 0 ds ha
  cases old <;> cases new <;> first | rfl | exact hr _ _

end Sys2Proof.Machine
end

