-- ==== Sys2Proof/Laws/Commands.lean ====
section
/-! SUPPORT. What a code selects (R138), and when a command of the command ring is taken (R139). -/

namespace Sys2Proof.Machine

open Sys2Proof

/-- R138: the codes that select no command. -/
theorem commandOfCode_eq_unknownCommand : ∀ code : Byte, commandOfCode code = .unknownCommand ↔
    code ∉ ([0x01, 0x02, 0x03, 0x04, 0x05, 0x06, 0x08, 0x09, 0x0A, 0x0B, 0x0C, 0x0D, 0x10, 0x11, 0x12, 0x18, 0x19, 0x1F] : List Byte) := by
  decide

/-- Whatever the tag, the code of word 7 selects the command (R138). -/
theorem decodeTableWord_of_word7 (tag code : Byte) : decodeTableWord 16 (tag ++ code).toNat = some (commandOfCode code) := by
  have h : BitVec.ofNat 8 (tag ++ code).toNat = code := by
    rw [BitVec.ofNat_toNat]
    apply BitVec.eq_of_getLsbD_eq
    intro i hi
    rw [BitVec.getLsbD_setWidth]
    erw [BitVec.getLsbD_append]
    simp [hi]
  simp only [decodeTableWord, if_true, h]

/-- A command whose code the record has is executed, and its result is due (R139). -/
theorem execute_of_selected {c : Instr} {s : State} {r : CommandRecord} (f : CommandRecord → State → State × CommandResult)
    (hl : s.live = true) (hs : s.cmd.state = .executing r) (hc : commandOfCode r.code = c) :
    execute c f s = .next { (f r s).1 with cmd := { (f r s).1.cmd with state := .writing r (f r s).2 } } := by
  simp [execute, whenLive, hl, hs, hc]

/-- A command that the code of the record does not select is not taken (log 1). -/
theorem execute_of_other_code {c : Instr} {s : State} {r : CommandRecord} (f : CommandRecord → State → State × CommandResult)
    (hs : s.cmd.state = .executing r) (hc : commandOfCode r.code ≠ c) : execute c f s = .next s := by
  simp [execute, whenLive, hs, hc]

/-- Without a record EXECUTING no command is taken (log 1). -/
theorem execute_of_no_record {c : Instr} {s : State} (f : CommandRecord → State → State × CommandResult)
    (hs : ∀ r, s.cmd.state ≠ .executing r) : execute c f s = .next s := by
  cases h : s.cmd.state <;> simp_all [execute, whenLive]

end Sys2Proof.Machine
end

