-- ==== Sys2Proof/Laws/Frames.lean ====
section
/-! SUPPORT. The bits of a sample port: what a word on SDIn is, and where the samples of FSYn make a boundary. -/

namespace Sys2Proof.Machine

open Sys2Proof

/-- Bit j of the word, counted from the most significant one, is the j-th bit of SDIn. -/
theorem sampledWord_getMsbD (sdi : Vector Bool 16) (j : Nat) (h : j < 16) : (sampledWord sdi).getMsbD j = sdi[j] := by
  simp [sampledWord, BitVec.getMsbD_ofBoolListBE, h]

/-- A word with these bits is the word sampled. -/
theorem eq_sampledWord (sdi : Vector Bool 16) (w : Word) (h : ∀ j, (hj : j < 16) → w.getMsbD j = sdi[j]) :
    w = sampledWord sdi := by
  apply BitVec.eq_of_getMsbD_eq
  intro j hj
  rw [h j hj, sampledWord_getMsbD sdi j hj]

/-- The first rise is a high sample after a low one, and every sample after an earlier low one is low. -/
theorem riseAt_eq_some (before : Bool) (l : List Bool) (i : Nat) :
    riseAt before l = some i ↔
      (before :: l)[i]? = some false ∧ l[i]? = some true ∧
        ∀ k, k < i → (before :: l)[k]? = some false → l[k]? = some false := by
  induction l generalizing before i with
  | nil => simp [riseAt]
  | cons x l ih =>
    cases i with
    | zero => cases before <;> cases x <;> simp [riseAt]
    | succ i =>
      have hk : (∀ k, k < i + 1 → (before :: x :: l)[k]? = some false → (x :: l)[k]? = some false) ↔
          (before = false → x = false) ∧ ∀ k, k < i → (x :: l)[k]? = some false → l[k]? = some false := by
        constructor
        · intro h
          exact ⟨fun hb => by simpa [hb] using h 0 (by omega), fun k hk hx => by simpa using h (k + 1) (by omega) (by simpa using hx)⟩
        · intro ⟨h0, h⟩ k hk hx
          cases k with
          | zero => simp at hx ⊢; exact h0 hx
          | succ k => simpa using h k (by omega) (by simpa using hx)
      rw [hk]
      cases before <;> cases x <;> simp [riseAt, ih]

/-- A boundary is made at sample i when that is the last of the samples, high after a low one, and no earlier sample is. -/
theorem lastRise_eq_some (l : List Bool) (i : Nat) :
    lastRise l = some i ↔
      l.length = i + 1 ∧ ∃ j, i = j + 1 ∧ l[j]? = some false ∧ l[j + 1]? = some true ∧
        ∀ k, k < j → l[k]? = some false → l[k + 1]? = some false := by
  have hr : lastRise l = some i ↔ riseAt true l = some i ∧ i + 1 = l.length := by
    simp only [lastRise]
    cases riseAt true l with
    | none => simp
    | some m =>
      by_cases hm : m + 1 = l.length
      · simp only [hm, if_true, Option.some.injEq]
        exact ⟨fun h => ⟨h, h ▸ hm⟩, fun h => h.1⟩
      · simp only [hm, if_false, Option.some.injEq, reduceCtorEq, false_iff]
        exact fun h => hm (h.1 ▸ h.2)
  rw [hr, riseAt_eq_some]
  cases i with
  | zero => simp
  | succ j =>
    simp only [List.getElem?_cons_succ, Nat.add_right_cancel_iff]
    constructor
    · intro ⟨⟨h1, h2, h3⟩, h4⟩
      exact ⟨h4.symm, j, rfl, h1, h2, fun k hk hx => h3 (k + 1) (by omega) (by simpa using hx)⟩
    · intro ⟨h4, j', hj, h1, h2, h3⟩
      subst hj
      refine ⟨⟨h1, h2, fun k hk hx => ?_⟩, h4.symm⟩
      cases k with
      | zero => simp at hx
      | succ k => exact h3 k (by omega) (by simpa using hx)

end Sys2Proof.Machine
end

