-- ==== Sys2Proof/Laws/Memory.lean ====
section
/-! SUPPORT. Memory: every operation keeps the canonical form, and what reads after a write give. -/

namespace Sys2Proof.Machine

open Sys2Proof

/-! ### The canonical form -/

theorem wfFrom_mono (m : List Host.Cell) (lo lo' : Nat) (h : lo' ≤ lo) (hm : Memory.wfFrom lo m = true) :
    Memory.wfFrom lo' m = true := by
  cases m with
  | nil => rfl
  | cons c m =>
    simp only [Memory.wfFrom, Bool.and_eq_true, decide_eq_true_eq] at hm ⊢
    exact ⟨⟨⟨by omega, hm.1.1.2⟩, hm.1.2⟩, hm.2⟩

theorem setByte_wfFrom (m : List Host.Cell) (lo k : Nat) (v : Byte) (hk : lo ≤ k) (hb : k < 2 ^ 20)
    (hm : Memory.wfFrom lo m = true) : Memory.wfFrom lo (Memory.setByte m k v) = true := by
  induction m generalizing lo with
  | nil =>
    simp only [Memory.setByte]
    split
    · rfl
    · simp_all [Memory.wfFrom]
  | cons c m ih =>
    obtain ⟨a, b⟩ := c
    simp only [Memory.wfFrom, Bool.and_eq_true, decide_eq_true_eq] at hm
    obtain ⟨⟨⟨h1, h2⟩, h3⟩, h4⟩ := hm
    simp only [Memory.setByte]
    split
    · split
      · simp_all [Memory.wfFrom]
      · simp_all [Memory.wfFrom] <;> omega
    · split
      · split
        · exact wfFrom_mono m (a + 1) lo (by omega) h4
        · simp_all [Memory.wfFrom]
      · have hk' : a + 1 ≤ k := by omega
        simp only [Memory.wfFrom, Bool.and_eq_true, decide_eq_true_eq]
        exact ⟨⟨⟨h1, h2⟩, h3⟩, ih (a + 1) hk' h4⟩

theorem lowKey_lt (a : Addr) : Memory.lowKey a < 2 ^ 20 := by
  have := a.isLt; simp only [Memory.lowKey]; omega

theorem highKey_lt (a : Addr) : Memory.highKey a < 2 ^ 20 := by
  have := a.isLt; simp only [Memory.highKey]; omega

/-- A store keeps the canonical form. -/
theorem store_wf (m : List Host.Cell) (a : Addr) (high low : Bool) (w : Word) (hm : Memory.wf m = true) :
    Memory.wf (Memory.store m a high low w) = true := by
  have h1 : Memory.wfFrom 0 (if low then Memory.setByte m (Memory.lowKey a) (lowByte w) else m) = true := by
    split
    · exact setByte_wfFrom m 0 _ _ (Nat.zero_le _) (lowKey_lt a) hm
    · exact hm
  simp only [Memory.store, Memory.wf]
  split
  · exact setByte_wfFrom _ 0 _ _ (Nat.zero_le _) (highKey_lt a) h1
  · exact h1

/-- A burst of stores keeps the canonical form. -/
theorem storeAll_wf (ws : List (Addr × Word)) (m : List Host.Cell) (hm : Memory.wf m = true) :
    Memory.wf (Memory.storeAll m ws) = true := by
  induction ws generalizing m with
  | nil => exact hm
  | cons x ws ih => exact ih _ (store_wf m x.1 true true x.2 hm)

/-- The memory after reset is in canonical form. -/
theorem reset_mem_wf : Memory.wf State.reset.mem = true := rfl

/-! ### Reads after writes -/

theorem byteAt_below (m : List Host.Cell) (lo k : Nat) (hk : k < lo) (hm : Memory.wfFrom lo m = true) :
    Memory.byteAt m k = Memory.unlisted := by
  induction m generalizing lo with
  | nil => rfl
  | cons c m ih =>
    obtain ⟨a, b⟩ := c
    simp only [Memory.wfFrom, Bool.and_eq_true, decide_eq_true_eq] at hm
    have hne : ¬ a = k := by omega
    simp only [Memory.byteAt, if_neg hne]
    exact ih (a + 1) (by omega) hm.2

/-- The byte written is the byte read. -/
theorem byteAt_setByte_same (m : List Host.Cell) (lo k : Nat) (v : Byte) (hm : Memory.wfFrom lo m = true) :
    Memory.byteAt (Memory.setByte m k v) k = v := by
  induction m generalizing lo with
  | nil => simp only [Memory.setByte]; split <;> simp_all [Memory.byteAt]
  | cons c m ih =>
    obtain ⟨a, b⟩ := c
    simp only [Memory.wfFrom, Bool.and_eq_true, decide_eq_true_eq] at hm
    obtain ⟨_, h4⟩ := hm
    simp only [Memory.setByte]
    split
    · split
      · next hlt hv =>
        rw [hv]
        simp only [Memory.byteAt, if_neg (by omega : ¬ a = k)]
        exact byteAt_below m (a + 1) k (by omega) h4
      · simp [Memory.byteAt]
    · split
      · split
        · next hge hka hv => rw [hv]; exact byteAt_below m (a + 1) k (by omega) h4
        · simp [Memory.byteAt]
      · next hge hne =>
        simp only [Memory.byteAt, if_neg (by omega : ¬ a = k)]
        exact ih (a + 1) h4

/-- Every other byte reads as before. -/
theorem byteAt_setByte_other (m : List Host.Cell) (lo k j : Nat) (v : Byte) (hj : j ≠ k) (hm : Memory.wfFrom lo m = true) :
    Memory.byteAt (Memory.setByte m k v) j = Memory.byteAt m j := by
  induction m generalizing lo with
  | nil =>
    simp only [Memory.setByte]
    split
    · rfl
    · simp only [Memory.byteAt, if_neg (Ne.symm hj)]
  | cons c m ih =>
    obtain ⟨a, b⟩ := c
    simp only [Memory.wfFrom, Bool.and_eq_true, decide_eq_true_eq] at hm
    obtain ⟨_, h4⟩ := hm
    simp only [Memory.setByte]
    split
    · split
      · rfl
      · simp only [Memory.byteAt, if_neg (Ne.symm hj)]
    · split
      · next hka =>
        have haj : ¬ a = j := by omega
        split
        · simp only [Memory.byteAt, if_neg haj]
        · simp only [Memory.byteAt, if_neg (Ne.symm hj), if_neg haj]
      · simp only [Memory.byteAt]
        split
        · rfl
        · exact ih (a + 1) h4

theorem lowKey_ne_highKey (a b : Addr) : Memory.lowKey a ≠ Memory.highKey b := by
  simp only [Memory.lowKey, Memory.highKey]; omega

theorem lowKey_inj (a b : Addr) (h : Memory.lowKey a = Memory.lowKey b) : a = b := by
  simp only [Memory.lowKey] at h; exact BitVec.eq_of_toNat_eq (by omega)

theorem highKey_inj (a b : Addr) (h : Memory.highKey a = Memory.highKey b) : a = b := by
  simp only [Memory.highKey] at h; exact BitVec.eq_of_toNat_eq (by omega)

theorem high_append_low (w : Word) : highByte w ++ lowByte w = w := by
  simp only [highByte, lowByte]
  exact BitVec.eq_of_getLsbD_eq fun i hi => by
    simp only [BitVec.getLsbD_append, BitVec.getLsbD_extractLsb']
    split <;> simp_all <;> (congr 1; omega)

/-- What a store leaves at a byte: the written lane's byte at the address, the old byte everywhere else. -/
theorem byteAt_store (m : List Host.Cell) (a : Addr) (high low : Bool) (w : Word) (k : Nat) (hm : Memory.wf m = true) :
    Memory.byteAt (Memory.store m a high low w) k =
      if high = true ∧ k = Memory.highKey a then highByte w
      else if low = true ∧ k = Memory.lowKey a then lowByte w
      else Memory.byteAt m k := by
  have hne := lowKey_ne_highKey a a
  have hm1 : Memory.wfFrom 0 (if low then Memory.setByte m (Memory.lowKey a) (lowByte w) else m) = true := by
    split
    · exact setByte_wfFrom m 0 _ _ (Nat.zero_le _) (lowKey_lt a) hm
    · exact hm
  have h1 : Memory.byteAt (if low then Memory.setByte m (Memory.lowKey a) (lowByte w) else m) k =
      if low = true ∧ k = Memory.lowKey a then lowByte w else Memory.byteAt m k := by
    cases low
    · simp
    · by_cases hk : k = Memory.lowKey a
      · subst hk; simp [byteAt_setByte_same m 0 _ _ hm]
      · simp [hk, byteAt_setByte_other m 0 _ k _ hk hm]
  simp only [Memory.store]
  cases high
  · simpa using h1
  · by_cases hk : k = Memory.highKey a
    · subst hk; simpa using byteAt_setByte_same _ 0 _ _ hm1
    · simpa [hk, byteAt_setByte_other _ 0 _ k _ hk hm1] using h1

/-- A word written in full is the word read. -/
theorem word_store_same (m : List Host.Cell) (a : Addr) (w : Word) (hm : Memory.wf m = true) :
    Memory.word (Memory.store m a true true w) a = w := by
  have := lowKey_ne_highKey a a
  simp only [Memory.word, byteAt_store _ _ _ _ _ _ hm]
  simp [this, high_append_low]

/-- Every other word reads as before, whatever lanes are written. -/
theorem word_store_other (m : List Host.Cell) (a b : Addr) (high low : Bool) (w : Word) (hab : b ≠ a)
    (hm : Memory.wf m = true) : Memory.word (Memory.store m a high low w) b = Memory.word m b := by
  have h1 : Memory.highKey b ≠ Memory.highKey a := fun h => hab (highKey_inj _ _ h)
  have h2 : Memory.lowKey b ≠ Memory.lowKey a := fun h => hab (lowKey_inj _ _ h)
  have h3 := lowKey_ne_highKey a b
  have h4 := lowKey_ne_highKey b a
  simp only [Memory.word, byteAt_store _ _ _ _ _ _ hm]
  simp [h1, h2, Ne.symm h3, h4]

/-- A burst changes no word but those it writes. -/
theorem word_storeAll_other (ws : List (Addr × Word)) (m : List Host.Cell) (b : Addr) (hb : ∀ x ∈ ws, x.1 ≠ b)
    (hm : Memory.wf m = true) : Memory.word (Memory.storeAll m ws) b = Memory.word m b := by
  induction ws generalizing m with
  | nil => rfl
  | cons x ws ih =>
    have hx : b ≠ x.1 := fun h => hb x (List.mem_cons_self ..) h.symm
    rw [Memory.storeAll, ih _ (fun y hy => hb y (List.mem_cons_of_mem _ hy)) (store_wf m x.1 true true x.2 hm),
      word_store_other m x.1 b true true x.2 hx hm]

end Sys2Proof.Machine
end

