-- ==== Sys2Proof/WellFormed.lean ====
section
/-! DEFINITION. Which commands a sender can send: the operand checks the types do not already make. -/

namespace Sys2Proof

/-- An arrival needs a strobe: PCS# low together with POE# or PWE# (R1). -/
def BusCycle.wellFormed (c : BusCycle) : Bool := c.poeLow || c.pweLow

/-- The operand checks of a command. Port numbers 0..3, words and addresses are right by their types. -/
def Instr.wellFormed : Instr → Bool
  | .accessArrival c => c.wellFormed
  | .arbiterGrant | .passageComplete | .holdExpiry | .fetchWordComplete | .depositWordComplete => true
  | .rxStoppingDrained _ | .rxRunComplete _ => true
  | .commandRecordRead | .commandResultWritten | .eventRecordWritten | .intPulseEnd | .identityBurstComplete => true
  | .frameBoundary _ _ | .lateFrame _ | .channelSlotStart _ | .rxChannelWordComplete _ _ | .starvationExpiry _ => true
  | .trigEdge | .tagclkEdge | .rstFall | .rstRise _ _ => true
  | .nop | .definePort | .defineStream | .defineDetector | .defineWatch | .apply | .start | .stop | .abort => true
  | .extend | .setLevel | .clearFault | .queryStream | .queryFaults | .queryPort | .setTime | .setLine => true
  | .resetPart | .unknownCommand | .internalTimeTagIncrease | .identityFirstBurstComplete | .pcsOrStrobesHigh => true

end Sys2Proof
end

