-- ==== Sys2Proof/Laws/PerInstr.lean ====
section
/-! SUPPORT. Statements about every command as syntax, one lemma per constructor. -/

/-- The only command a sender cannot send is an arrival with no strobe low (R1). -/
def Sys2Proof.Laws.Sendable.Statement (i : Sys2Proof.Instr) : Prop :=
  i.wellFormed = false ↔ ∃ c : Sys2Proof.BusCycle, i = .accessArrival c ∧ c.poeLow = false ∧ c.pweLow = false

namespace Sys2Proof.Laws.Sendable

/-- Every command that is no arrival can be sent. -/
theorem other (i : Instr) (h : i.wellFormed = true) (hi : ∀ c, i ≠ .accessArrival c) : Statement i :=
  ⟨fun h' => absurd (h.symm.trans h') (by decide), fun ⟨c, hc, _⟩ => absurd hc (hi c)⟩

theorem accessArrival (c : BusCycle) : Statement (.accessArrival c) := by
  simp [Statement, Instr.wellFormed, BusCycle.wellFormed]

theorem arbiterGrant : Statement (.arbiterGrant) :=
  other _ rfl fun _ h => nomatch h
theorem passageComplete : Statement (.passageComplete) :=
  other _ rfl fun _ h => nomatch h
theorem holdExpiry : Statement (.holdExpiry) :=
  other _ rfl fun _ h => nomatch h
theorem fetchWordComplete : Statement (.fetchWordComplete) :=
  other _ rfl fun _ h => nomatch h
theorem depositWordComplete : Statement (.depositWordComplete) :=
  other _ rfl fun _ h => nomatch h
theorem rxStoppingDrained (p : Fin 4) : Statement (.rxStoppingDrained p) :=
  other _ rfl fun _ h => nomatch h
theorem rxRunComplete (p : Fin 4) : Statement (.rxRunComplete p) :=
  other _ rfl fun _ h => nomatch h
theorem commandRecordRead : Statement (.commandRecordRead) :=
  other _ rfl fun _ h => nomatch h
theorem commandResultWritten : Statement (.commandResultWritten) :=
  other _ rfl fun _ h => nomatch h
theorem eventRecordWritten : Statement (.eventRecordWritten) :=
  other _ rfl fun _ h => nomatch h
theorem intPulseEnd : Statement (.intPulseEnd) :=
  other _ rfl fun _ h => nomatch h
theorem identityBurstComplete : Statement (.identityBurstComplete) :=
  other _ rfl fun _ h => nomatch h
theorem frameBoundary (p : Fin 4) (fsy : List Bool) : Statement (.frameBoundary p fsy) :=
  other _ rfl fun _ h => nomatch h
theorem lateFrame (p : Fin 4) : Statement (.lateFrame p) :=
  other _ rfl fun _ h => nomatch h
theorem channelSlotStart (p : Fin 4) : Statement (.channelSlotStart p) :=
  other _ rfl fun _ h => nomatch h
theorem rxChannelWordComplete (p : Fin 4) (sdi : Vector Bool 16) : Statement (.rxChannelWordComplete p sdi) :=
  other _ rfl fun _ h => nomatch h
theorem starvationExpiry (p : Fin 4) : Statement (.starvationExpiry p) :=
  other _ rfl fun _ h => nomatch h
theorem trigEdge : Statement (.trigEdge) :=
  other _ rfl fun _ h => nomatch h
theorem tagclkEdge : Statement (.tagclkEdge) :=
  other _ rfl fun _ h => nomatch h
theorem rstFall : Statement (.rstFall) :=
  other _ rfl fun _ h => nomatch h
theorem rstRise (base : BitVec 4) (bpar : Bool) : Statement (.rstRise base bpar) :=
  other _ rfl fun _ h => nomatch h
theorem nop : Statement (.nop) :=
  other _ rfl fun _ h => nomatch h
theorem definePort : Statement (.definePort) :=
  other _ rfl fun _ h => nomatch h
theorem defineStream : Statement (.defineStream) :=
  other _ rfl fun _ h => nomatch h
theorem defineDetector : Statement (.defineDetector) :=
  other _ rfl fun _ h => nomatch h
theorem defineWatch : Statement (.defineWatch) :=
  other _ rfl fun _ h => nomatch h
theorem apply : Statement (.apply) :=
  other _ rfl fun _ h => nomatch h
theorem start : Statement (.start) :=
  other _ rfl fun _ h => nomatch h
theorem stop : Statement (.stop) :=
  other _ rfl fun _ h => nomatch h
theorem abort : Statement (.abort) :=
  other _ rfl fun _ h => nomatch h
theorem extend : Statement (.extend) :=
  other _ rfl fun _ h => nomatch h
theorem setLevel : Statement (.setLevel) :=
  other _ rfl fun _ h => nomatch h
theorem clearFault : Statement (.clearFault) :=
  other _ rfl fun _ h => nomatch h
theorem queryStream : Statement (.queryStream) :=
  other _ rfl fun _ h => nomatch h
theorem queryFaults : Statement (.queryFaults) :=
  other _ rfl fun _ h => nomatch h
theorem queryPort : Statement (.queryPort) :=
  other _ rfl fun _ h => nomatch h
theorem setTime : Statement (.setTime) :=
  other _ rfl fun _ h => nomatch h
theorem setLine : Statement (.setLine) :=
  other _ rfl fun _ h => nomatch h
theorem resetPart : Statement (.resetPart) :=
  other _ rfl fun _ h => nomatch h
theorem unknownCommand : Statement (.unknownCommand) :=
  other _ rfl fun _ h => nomatch h
theorem internalTimeTagIncrease : Statement (.internalTimeTagIncrease) :=
  other _ rfl fun _ h => nomatch h
theorem identityFirstBurstComplete : Statement (.identityFirstBurstComplete) :=
  other _ rfl fun _ h => nomatch h
theorem pcsOrStrobesHigh : Statement (.pcsOrStrobesHigh) :=
  other _ rfl fun _ h => nomatch h

end Sys2Proof.Laws.Sendable
end

