-- ==== Sys2Proof/Laws/Pins.lean ====
section
/-! SUPPORT. The output pins, case by case. -/

namespace Sys2Proof.Machine

open Sys2Proof

/-- In RESET and SAFE the memory port shows what the processor port shows (R19). -/
theorem memoryPins_still (s : State) (h : s.live = false) : s.memoryPins = s.path.bus.map BusCycle.memoryPins := by
  simp [State.memoryPins, State.transparent, h]

/-- In STARTING and OPERATING the memory port carries the forwarded access in its PASSAGE cycle (R3). -/
theorem memoryPins_passage (s : State) (a : Access) (e : Effect) (h : s.live = true) (hp : s.path.phase = .forwarded a e)
    (hu : s.arb.use = .passage) : s.memoryPins = some a.memoryPins := by
  simp [State.memoryPins, State.transparent, h, hp, hu]

/-- PRDY is high unless an access is held or forwarded (R1). -/
theorem prdy_iff (s : State) :
    s.prdy = true ↔ (∀ h, s.path.phase ≠ .held h) ∧ ∀ a e, s.path.phase ≠ .forwarded a e := by
  simp only [State.prdy]
  cases s.path.phase <;> simp

/-- Without a slot under way SDOn is low (R89). -/
theorem sdoHalf_of_sdo_none (s : State) (p : Fin 4) (half : Nat) (h : s.sdo p = none) : s.sdoHalf p half = false := by
  simp only [State.sdoHalf, h]
  cases (s.port p).active <;> rfl

end Sys2Proof.Machine
end

