-- ==== Sys2Proof/Tests/Slice0.lean ====
section
/-! SUPPORT. The model's own tests: the check on operands, the manual's worked figures step by step on small states, and for
every statement of the certificate a state that meets its hypotheses, clause by clause. -/

namespace Sys2Proof.Tests

open Sys2Proof Sys2Proof.Machine Sys2Proof.Claims

/-! ### Small states -/

/-- The state a command leaves. -/
def after (c : Instr) (s : State) : State :=
  match exec c s with
  | .next t => t
  | .fault _ | .refused _ => s

/-- OPERATING at BASE = 3, so the control area is at 0x18000. -/
def on : State := { State.reset with start := { State.reset.start with part := .operating, base := 3, bpar := true } }

/-- The port of the typical setup. -/
def typical : PortDef :=
  { role := .master, channels := 2, frameBits := 40, divider := 8, shape := .pulse, check := .exact, idle := 0x0007 }

/-- A stream of 16 words at a base, burst 2, every event enabled. -/
def streamAt (base : Addr) : StreamDef :=
  { base := base, length := 16, burstCode := 2, holdLimit := 50, resume := .auto, starvation := 1, runFrames := 4
    enables := { lifecycle := true, fault := true, signal := true, onset := true, segment := true } }

/-- Port 0 with stream 0 at 0x00100 and stream 1 at 0x00200, both IDLE. -/
def duplex : State :=
  let s1 := on.setPort 0 { PortEntry.fresh (some typical) with framePos := some 0 }
  (s1.setStream 0 (StreamEntry.fresh (some (streamAt 0x00100)) 7)).setStream 1
    (StreamEntry.fresh (some (streamAt 0x00200)) 7)

/-- The same with the port a SYNCED SLAVE. -/
def slave : State :=
  duplex.setPort 0 { PortEntry.fresh (some { typical with role := .slave }) with sync := .synced, framePos := some 20 }

def withRing (s : State) (r : RingId) (producer consumer fill : Nat) : State :=
  s.setRing r { s.ring r with producer := producer, consumer := consumer, fill := fill }

/-- Stream n RUNNING with a limit of 8 words. -/
def running (s : State) (n : Fin 8) : State :=
  s.setStream n { s.stream n with state := .running, limit := some 8, gateOpen := !isTx n }

def withState (s : State) (n : Fin 8) (st : StreamState) : State := s.setStream n { s.stream n with state := st }

def tx (s : State) (f : List Word) : State := s.setPort 0 { s.port 0 with txFifo := f }

def rx (s : State) (f : List RxEntry) : State := s.setPort 0 { s.port 0 with rxFifo := f }

def readOf (a : Addr) : BusCycle := { addr := a, poeLow := true, pweLow := false, pubLow := true, plbLow := true, data := 0 }

def writeOf (a : Addr) (w : Word) : BusCycle :=
  { addr := a, poeLow := false, pweLow := true, pubLow := true, plbLow := true, data := w }

/-- FSYn of a SYNCED SLAVE with PULSE whose next boundary comes at bit k. -/
def pulseAt (k : Nat) : List Bool := List.replicate (k - 1) false ++ [true]

/-- The bits of a word on SDIn. -/
def sdiOf (w : Word) : Vector Bool 16 := Vector.ofFn fun i => w.getMsbD i.val

/-- EXECUTING a record of slot 2 with tag 0x5A. -/
def executing (s : State) (code : Byte) (p : Vector Word 6) : State :=
  { s with cmd := { s.cmd with state := .executing { slot := 2, tag := 0x5A, code := code, params := p } } }

/-- The result code and detail the Command Unit is about to write. -/
def resultOf (s : State) : Option (ResultCode × Word × Option (Vector Word 6)) :=
  match s.cmd.state with
  | .writing _ r => some (r.code, r.detail, r.response)
  | _ => none

/-- A write held on the full ring of stream 0. -/
def heldWrite : State := after (.accessArrival (writeOf 0x00104 0x1234)) (withRing duplex (.stream 0) 4 4 16)

/-- A read held on the empty ring of stream 1. -/
def heldRead : State := after (.accessArrival (readOf 0x00200)) duplex

/-- A watch on 0x00300, ANY of the low byte, ENTER, BLOCK. -/
def blocker : WatchEntry :=
  { active := some { addr := 0x00300, mask := 0x00FF, mode := .any, trigger := .enter, action := .block }, matching := false }

/-- A gating detector of 8-frame blocks. -/
def gate : DetectorDef :=
  { blockFrames := 8, mask := 3, onThreshold := 100, offThreshold := 50, onTime := 1, offTime := 2, gating := true }

/-! ### Operands -/

theorem test_wellFormed_refuses_no_strobe :
    (Sys2Proof.Instr.accessArrival { readOf 5 with poeLow := false }).wellFormed = false := by decide

theorem test_wellFormed_takes_either_strobe :
    (Instr.accessArrival (readOf 5)).wellFormed = true ∧ (Instr.accessArrival (writeOf 5 0)).wellFormed = true := by decide

/-- R138: word 7 with tag 0x5A; the tag does not matter, and a word of another length spells no command (log 20). -/
theorem test_word_7_selects_the_command :
    decodeTableWord 16 0x5A01 = some .nop ∧ decodeTableWord 16 0xFF1F = some .resetPart ∧
    decodeTableWord 16 0x0108 = some .start ∧ decodeTableWord 16 0x0107 = some .unknownCommand ∧
    decodeTableWord 16 0x0100 = some .unknownCommand ∧ decodeTableWord 16 0x5A80 = some .unknownCommand ∧
    decodeTableWord 8 0x01 = none ∧ (State.reset.withFetchWord 16 0x5A01).pending = [.nop] := by decide

/-! ### Start-up -/

theorem test_straps_choose_starting_or_safe :
    (after (.rstRise 3 true) State.reset).start.part = .starting ∧ (after (.rstRise 0 true) State.reset).start.part = .starting ∧
    (after (.rstRise 7 false) State.reset).start.part = .starting ∧ (after (.rstRise 0 false) State.reset).start.part = .safe ∧
    (after (.rstRise 3 true) State.reset).controlBase = 0x18000 := by decide

/-- STARTING with the first identity burst granted, and then with the second. -/
def started : State := after (.rstRise 3 true) State.reset
def firstBurst : State := after .arbiterGrant started
def secondBurst : State := after .arbiterGrant (after .identityFirstBurstComplete firstBurst)
def begun : State := after .identityBurstComplete secondBurst

theorem test_identity_block_is_written :
    Memory.word begun.mem 0x18000 = 0x0428 ∧ Memory.word begun.mem 0x18007 = 3 ∧ Memory.word begun.mem 0x18008 = 1 ∧
    Memory.word begun.mem 0x1800D = 0x8000 ∧ Memory.word begun.mem 0x1800F = 400 := by decide

theorem test_started_ends_starting :
    begun.start.part = .operating ∧
    begun.events.queue = [{ event := ⟨.started, 0xFF, 1, 3, 0, 0⟩, carried := 0 }] := by decide

theorem test_fall_clears_and_keeps_memory :
    (after .rstFall begun).start.part = .reset ∧ (after .rstFall begun).events.queue = [] ∧
    Memory.word (after .rstFall begun).mem 0x18000 = 0x0428 := by decide

/-! ### Accesses -/

theorem test_transparent_write_lands :
    Memory.word (after (.accessArrival (writeOf 0x18000 0xBEEF)) State.reset).mem 0x18000 = 0xBEEF := by decide

theorem test_outside_read_is_forwarded :
    (after (.accessArrival (readOf 0x00300)) duplex).path.phase = .forwarded (accessOf (readOf 0x00300)) .none := by decide

theorem test_posting_fills_at_completion :
    let s := after .passageComplete (after .arbiterGrant (after (.accessArrival (writeOf 0x00100 0x1234)) duplex))
    (s.ring (.stream 0)).fill = 1 ∧ (s.ring (.stream 0)).producer = 1 ∧ Memory.word s.mem 0x00100 = 0x1234 ∧
    s.path.phase = .ended := by decide

theorem test_strobes_high_readies : (after .pcsOrStrobesHigh { duplex with path :=
    { duplex.path with phase := .ended } }).path.phase = .ready := by decide

theorem test_held_write_is_refused_at_expiry :
    heldWrite.prdy = false ∧ (after .holdExpiry heldWrite).prdy = true ∧ (after .holdExpiry heldWrite).mem = [] ∧
    ((after .holdExpiry heldWrite).stream 0).flag .refused = true := by decide

theorem test_held_read_gets_the_idle_word :
    (after .holdExpiry heldRead).path.pd = 7 ∧ ((after .holdExpiry heldRead).stream 1).faultCount .empty = 1 := by decide

theorem test_microsecond_counts_the_time_held :
    (match step heldRead with
      | .next t => match t.path.phase with
        | .held h => h.time == 1
        | _ => false
      | _ => false) = true := by decide

theorem test_blocked_write_stays_out :
    let s := after (.accessArrival (writeOf 0x00300 0x0101)) (duplex.setWatch 2 blocker)
    s.path.phase = .ended ∧ s.mem = [] ∧ (s.watch 2).matching = true ∧
    s.events.queue = [{ event := ⟨.watchHit, 2, 0x0101, 0x0300, 1, 0⟩, carried := 0 }] := by decide

/-! ### Engines and records -/

/-- Stream 0 PENDING with three words posted, its first burst granted. -/
def fetchBurst : State := after .arbiterGrant (withState (withRing duplex (.stream 0) 3 0 3) 0 .pending)

theorem test_fetch_word_joins_the_fifo :
    (after .fetchWordComplete fetchBurst).arb.use =
      .fetch { port := 0, reads := [0x00101], ringStands := true, runStands := true } ∧
    ((after .fetchWordComplete fetchBurst).port 0).txFifo.length = 1 ∧
    ((after .fetchWordComplete fetchBurst).stream 0).fetched = 1 := by decide

/-- Stream 1 RUNNING with two samples and a mark, its burst granted. -/
def depositBurst : State :=
  after .arbiterGrant (rx (running duplex 1) [.sample 10 0, .sample 11 1, .mark .segStart 9])

/-- The same burst with its first word done. -/
def lastDeposit : State := after .depositWordComplete depositBurst

/-- R153, R186: with its ring gone the words of the burst are dropped, at their step and at a fall of RST# (log 8). -/
theorem test_words_without_their_ring_are_dropped :
    let s := depositBurst.dropClaims 1
    (after .depositWordComplete s).mem = s.mem ∧ (after .depositWordComplete s).arb.use =
      .deposit { port := 0, writes := [(0x00201, 11)], ringStands := false, runStands := true } ∧
    (after .rstFall s).mem = s.mem := by decide

theorem test_deposit_word_fills_and_marks_follow :
    Memory.word (after .depositWordComplete lastDeposit).mem 0x00201 = 11 ∧
    ((after .depositWordComplete lastDeposit).ring (.stream 1)).fill = 2 ∧
    ((after .depositWordComplete lastDeposit).stream 1).segOpen = true ∧
    (after .depositWordComplete lastDeposit).events.queue =
      [{ event := ⟨.segmentStart, 1, 2, 0, 0, 9⟩, carried := 0 }] := by decide

theorem test_two_marks_in_a_row_are_both_processed :
    let s := after .depositWordComplete (rx lastDeposit [.mark .segStart 9, .mark .segEnd 12, .reserved 0])
    (s.port 0).rxFifo = [.reserved 0] ∧ (s.stream 1).segOpen = false ∧ s.events.queue =
      [{ event := ⟨.segmentStart, 1, 2, 0, 0, 9⟩, carried := 0 }, { event := ⟨.segmentEnd, 1, 2, 0, 0, 12⟩, carried := 0 }] := by
  decide

/-- A NOP record in slot 0, posted and taken, its read granted. -/
def nopPosted : State :=
  { withRing on .command 1 0 1 with
    mem := Memory.storeAll [] (placed 0x18010 [0, 0, 0, 0, 0, 0, 0, 0x5A01])
    cmd := { on.cmd with state := .reading 0 } }
def nopRead : State := after .arbiterGrant nopPosted
def nopDone : State := after .nop (after .commandRecordRead nopRead)
def nopResult : State := after .arbiterGrant nopDone

theorem test_record_is_read :
    (after .commandRecordRead nopRead).cmd.state =
      .executing { slot := 0, tag := 0x5A, code := 0x01, params := Vector.replicate 6 0 } := by decide

theorem test_result_is_written :
    Memory.word (after .commandResultWritten nopResult).mem 0x18017 = 0x5A80 ∧
    ((after .commandResultWritten nopResult).ring .command).fill = 0 ∧
    (after .commandResultWritten nopResult).cmd.state = .waiting := by decide

/-- One event queued and its record's burst granted. -/
def eventBurst : State := after .arbiterGrant (on.raisePart .trigger 0xFF 1 0 0)

theorem test_event_record_lowers_int :
    eventBurst.int = true ∧ (after .eventRecordWritten eventBurst).int = false ∧
    Memory.word (after .eventRecordWritten eventBurst).mem 0x18090 = 0xFF02 ∧
    Memory.word (after .eventRecordWritten eventBurst).mem 0x18097 = 1 := by decide

/-- PULSE mode with a pulse under way. -/
def pulsing : State := { on with events := { on.events with line := .pulse, pulse := some 0 } }

theorem test_pulse_ends : pulsing.int = false ∧ (after .intPulseEnd pulsing).int = true := by decide

/-- R16's table, grants 2 to 4: Fetch and Record Writer passed over twice, then the Fetch Engine, then the Record Writer. -/
def contest : State :=
  ((withState (withRing duplex (.stream 0) 3 0 3) 0 .pending).raisePart .trigger 0xFF 1 0 0).forward
    (accessOf (readOf 0x00300)) .none

theorem test_contest_for_the_port :
    (after .arbiterGrant { contest with arb := { contest.arb with counts := #v[0, 1, 1, 0] } }).arb =
      { use := .passage, counts := #v[0, 2, 2, 0] } ∧
    (after .arbiterGrant { contest with arb := { contest.arb with counts := #v[0, 2, 2, 0] } }).arb.counts = #v[0, 0, 3, 0] ∧
    (after .arbiterGrant { contest with arb := { contest.arb with counts := #v[0, 0, 3, 0] } }).arb.counts = #v[0, 1, 0, 0] :=
  by decide

/-! ### Pins -/

theorem test_transparent_path_follows_the_processor_port :
    (after (.accessArrival (writeOf 0x18000 0xBEEF)) State.reset).memoryPins =
      some { ma := 0x18000, mcs := false, moe := true, mwe := false, mub := false, mlb := false, md := some 0xBEEF } ∧
    (after .pcsOrStrobesHigh (after (.accessArrival (writeOf 0x18000 0xBEEF)) State.reset)).memoryPins = none := by decide

theorem test_passage_puts_the_access_on_the_memory_port :
    let s := after (.accessArrival (readOf 0x00300)) duplex
    s.memoryPins = none ∧ (after .arbiterGrant s).memoryPins =
      some { ma := 0x00300, mcs := false, moe := false, mwe := true, mub := false, mlb := false, md := none } := by decide

/-- R87: what a MASTER drives gives a SLAVE of the same shape a boundary every L bits, and FSYn held high gives none. -/
theorem test_a_slave_follows_a_master_of_its_shape :
    SyncShape.pulse.position ((List.range 40).map typical.fsyIn) = some 40 ∧
    SyncShape.span.position ((List.range 41).map fun b => { typical with shape := .span }.fsyIn (b % 40)) = some 40 ∧
    SyncShape.span.position (List.replicate 41 true) = none ∧ SyncShape.pulse.position (List.replicate 41 true) = none := by
  decide

theorem test_master_drives_fsy_and_sck :
    duplex.fsy 0 39 = some true ∧ duplex.fsy 0 0 = some false ∧ slave.fsy 0 39 = none ∧
    (duplex.setPort 0 (PortEntry.fresh (some typical))).fsy 0 0 = some true ∧ duplex.sck 0 7 = some false ∧
    duplex.sck 0 8 = some true := by decide

/-- R89: most significant bit first; a SLAVE with SPAN drives low in the first half bit of channel 0. -/
theorem test_slot_goes_most_significant_bit_first :
    let s := after (.channelSlotStart 0) (tx (running duplex 0) [0x8001])
    let t := s.setPort 0 { s.port 0 with active := some { typical with role := .slave, shape := .span } }
    [0, 1, 2, 29, 30, 31].map (s.sdoHalf 0) = [true, true, false, false, true, true] ∧
    [0, 1, 2, 29, 30, 31].map (t.sdoHalf 0) = [false, true, false, false, true, true] := by decide

/-- R89: channel word C − 1 of SDIn is complete in the middle of the last bit of the slot, which SDOn still carries to its end;
then comes the gap, low. No sync comes before the end of a slot whose word is complete (log 10). -/
theorem test_the_last_bit_of_a_slot_goes_to_its_end :
    let q : PortEntry := { slave.port 0 with slotsStarted := 2, wordsDone := 1, framePos := some 16, slotWord := 0x8001 }
    let t := after (.rxChannelWordComplete 0 (sdiOf 1)) (slave.setPort 0 q)
    (t.port 0).framePos = some 31 ∧ (t.port 0).wordsDone = 2 ∧ [0, 1, 29, 30, 31, 32, 33].map (t.sdoHalf 0) =
      [true, true, false, true, true, false, false] ∧
    t.boundaryCanCome 0 { typical with role := .slave } 31 = false ∧
    t.boundaryCanCome 0 { typical with role := .slave } 32 = true := by decide

/-! ### Frames -/

theorem test_boundary_starts_a_pending_stream :
    let s := after (.frameBoundary 0 []) (withState duplex 1 .pending)
    (s.stream 1).state = .running ∧ (s.port 0).framesSeen = 1 := by decide

theorem test_boundary_admits_a_frame :
    ((after (.frameBoundary 0 []) (running duplex 1)).port 0).rxFifo = [.reserved 0, .reserved 1] ∧
    ((after (.frameBoundary 0 []) (running duplex 1)).stream 1).admitted = 2 := by decide

theorem test_channel_word_takes_its_place :
    ((after (.rxChannelWordComplete 0 (sdiOf 0x0123)) (after (.frameBoundary 0 []) (running duplex 1))).port 0).rxFifo =
      [.sample 0x0123 0, .reserved 1] := by decide

theorem test_early_sync_pads :
    let s := after (.frameBoundary 0 (pulseAt 22)) (rx ((running slave 1).setPort 0 { slave.port 0 with
      admitted := true }) [.sample 5 0, .reserved 1])
    (s.port 0).rxFifo = [.sample 5 0, .sample 7 1, .reserved 0, .reserved 1] ∧ (s.stream 1).flag .frame = true := by decide

theorem test_late_frame_reports_once :
    let s := after (.lateFrame 0) slave
    (s.port 0).framePos = some 41 ∧ (s.stream 0).faultCount .frame = 1 ∧
    ((after (.lateFrame 0) s).stream 0).faultCount .frame = 1 := by decide

/-- R94: 0x8000 sent with attenuation 2 goes out as 0xE000, and 0xFFFF stays. -/
theorem test_attenuation_shifts_arithmetically :
    ((after (.channelSlotStart 0) (tx ((running duplex 0).setStream 0 { (running duplex 0).stream 0 with
      attenuation := 2 }) [0x8000])).port 0).slotWord = 0xE000 ∧
    sentValue { (running duplex 0).stream 0 with attenuation := 3 } 0 0xFFFF = 0xFFFF := by decide

theorem test_underrun_begins_and_starves :
    let s := after (.channelSlotStart 0) (running duplex 0)
    (s.port 0).tx = .waiting ∧ (s.stream 0).starvation = some 0 ∧ (s.stream 0).faultCount .underrun = 1 ∧
    ((after (.starvationExpiry 0) s).stream 0).stopping = some .starved := by decide

theorem test_block_end_opens_the_gate :
    let s := after (.frameBoundary 0 []) ((withState duplex 1 .running).setDetector 0
      { DetectorEntry.fresh (some gate) with frames := 7, peak := 100 })
    (s.detector 0).state = .present ∧ (s.detector 0).last = 100 ∧ (s.stream 1).gateOpen = true := by decide

/-- Section 10.5: the START mark goes into the empty FIFO and is processed at once, behind SIGNAL_PRESENT. -/
theorem test_start_mark_in_an_empty_fifo_opens_the_segment_at_once :
    let s := after (.frameBoundary 0 []) ((withState duplex 1 .running).setDetector 0
      { DetectorEntry.fresh (some gate) with frames := 7, peak := 100 })
    (s.port 0).rxFifo = [] ∧ (s.stream 1).segOpen = true ∧ s.events.queue =
      [{ event := ⟨.signalPresent, 1, 100, 0, 0, 0⟩, carried := 0 }, { event := ⟨.segmentStart, 1, 0, 0, 0, 0⟩, carried := 0 }] := by
  decide

theorem test_drained_receive_run_ends :
    ((after (.rxStoppingDrained 0) (withState duplex 1 .stopping)).stream 1).state = .idle ∧
    ((after (.rxRunComplete 0) ((running duplex 1).setStream 1 { (running duplex 1).stream 1 with
      limitReached := true })).stream 1).state = .idle := by decide

/-! ### TRIG and the time tag -/

theorem test_trigger_names_its_streams :
    let s := after .trigEdge (withState (withState duplex 0 .armed) 1 .armed)
    (s.stream 0).state = .pending ∧ s.events.queue = [{ event := ⟨.trigger, 0xFF, 3, 0, 0, 0⟩, carried := 0 }] := by decide

theorem test_tag_wraps :
    (after .internalTimeTagIncrease { on with time := { counter := 0xFFFFFFFF, source := .internal } }).time.counter = 0 ∧
    (after .tagclkEdge { on with time := { counter := 5, source := .external } }).time.counter = 6 := by decide

/-! ### Commands -/

theorem test_define_port :
    (after .definePort (executing on 0x02 #v[0x8001, 0x0002, 32, 8, 0x0007, 0])).cmd.staged.ports =
      #v[none, some { typical with frameBits := 32, check := .early }, none, none] ∧
    resultOf (after .definePort (executing on 0x02 #v[0x8001, 0x0009, 32, 8, 0, 0])) = some (.invalid, 1, none) := by decide

theorem test_define_stream :
    ((after .defineStream (executing on 0x03 #v[0xBE02, 0x0100, 0x0200, 16, 0x0132, 4])).cmd.staged.streams)[2] =
      some (streamAt 0x00100) := by decide

theorem test_define_detector :
    ((after .defineDetector (executing on 0x04 #v[0x8101, 0x0303, 100, 50, 0x0201, 0])).cmd.staged.detectors)[1] =
      some gate := by decide

theorem test_define_watch :
    ((after .defineWatch (executing on 0x05 #v[0x8C02, 0x0300, 0, 0x00FF, 0, 0])).cmd.staged.watches)[2] =
      blocker.active ∧
    resultOf (after .defineWatch (executing on 0x05 #v[0x8302, 0, 0, 0, 0, 0])) = some (.invalid, 0, none) := by decide

/-- The staged copies of `duplex`. -/
def staged : State :=
  { on with cmd := { on.cmd with staged := { Staged.none with
      ports := Staged.none.ports.set 0 (some typical)
      streams := (Staged.none.streams.set 0 (some (streamAt 0x00100))).set 1 (some (streamAt 0x00200)) } } }

theorem test_apply_makes_streams_idle :
    let s := after .apply (executing staged 0x06 #v[0x0103, 0, 0, 0, 0, 0])
    (s.stream 0).state = .idle ∧ (s.stream 1).active = some (streamAt 0x00200) ∧ (s.port 0).sync = .running ∧
    resultOf s = some (.done, 0, none) := by decide

theorem test_apply_without_the_port_conflicts :
    resultOf (after .apply (executing staged 0x06 #v[0x0003, 0, 0, 0, 0, 0])) = some (.conflict, 0, none) := by decide

theorem test_start_begins_a_run :
    ((after .start (executing duplex 0x08 #v[0x0100, 0, 0, 0, 0, 0])).stream 0).state = .armed ∧
    ((after .start (executing duplex 0x08 #v[0x0001, 0, 0, 0, 0, 0])).stream 1).limit = some 8 := by decide

theorem test_stop_and_abort :
    ((after .stop (executing (running duplex 0) 0x09 #v[0, 0, 0, 0, 0, 0])).stream 0).state = .stopping ∧
    ((after .abort (executing (tx (running duplex 0) [1, 2]) 0x0A #v[0, 0, 0, 0, 0, 0])).stream 0).discarded = 2 := by decide

/-- Stream 1 RUNNING with an open gate and nothing in its FIFO. -/
def gated : State := (running duplex 1).setDetector 0 (DetectorEntry.fresh (some gate))

theorem test_stop_closes_the_segment_before_the_run :
    let s := after .stop (executing gated 0x09 #v[1, 0, 0, 0, 0, 0])
    (s.stream 1).state = .idle ∧ (s.stream 1).gateOpen = false ∧ (s.port 0).rxFifo = [] ∧ s.events.queue =
      [{ event := ⟨.segmentEnd, 1, 0, 0, 0, 0⟩, carried := 0 }, { event := ⟨.streamEnded, 1, 2, 0, 0, 0⟩, carried := 0 }] := by
  decide

theorem test_extend :
    ((after .extend (executing (running duplex 0) 0x0B #v[0, 3, 0, 0, 0, 0])).stream 0).extension = some 3 ∧
    resultOf (after .extend (executing duplex 0x0B #v[0, 3, 0, 0, 0, 0])) = some (.late, 0, none) := by decide

theorem test_level_and_clear_fault :
    ((after .setLevel (executing duplex 0x0C #v[0, 0x0102, 0, 0, 0, 0])).stream 0).mute = true ∧
    ((after .clearFault (executing (duplex.occur 0 .order 5) 0x0D #v[0, 0x0040, 0, 0, 0, 0])).stream 0).flag .order = false := by
  decide

theorem test_queries :
    resultOf (after .queryStream (executing (withRing duplex (.stream 0) 3 0 3) 0x10 #v[0, 0, 0, 0, 0, 0])) =
      some (.done, 0, some #v[0x0100, 0, 3, 0, 3, 0]) ∧
    resultOf (after .queryFaults (executing (duplex.occur 0 .order 5) 0x11 #v[0, 0, 0, 0, 0, 0])) =
      some (.done, 0, some #v[0, 0, 0, 0, 0, 1]) ∧
    resultOf (after .queryPort (executing duplex 0x12 #v[0, 0, 0, 0, 0, 0])) =
      some (.done, 0, some #v[0x8002, 0, 0, 0, 0, 0]) := by decide

theorem test_set_time_and_line :
    (after .setTime (executing on 0x18 #v[0x5678, 0x1234, 1, 0, 0, 0])).time = { counter := 0x12345678, source := .external } ∧
    (after .setLine (executing pulsing 0x19 #v[0, 0, 0, 0, 0, 0])).events.pulse = none := by decide

theorem test_nop_and_unknown :
    resultOf (after .nop (executing on 0x01 #v[0, 0, 0, 0, 0, 0])) = some (.done, 0, none) ∧
    resultOf (after .unknownCommand (executing on 0x07 #v[0, 0, 0, 0, 0, 0])) = some (.unknown, 0, none) := by decide

theorem test_reset_part :
    let s := after .resetPart (executing (running duplex 1) 0x1F #v[0, 0, 0, 0, 0, 0])
    (s.stream 1).state = .absent ∧ (s.port 0).active = none ∧
    s.events.queue = [{ event := ⟨.streamEnded, 1, 5, 0, 0, 0⟩, carried := 0 }] := by decide

/-! ### Witnesses: for each statement, states and operands that meet its hypotheses -/

theorem witness_StepRunsTheFrontCommand : { on with pending := [.nop, .trigEdge] }.pending = .nop :: [.trigEdge] := rfl

theorem witness_EmptyQueueLetsAMicrosecondPass :
    State.reset.pending = [] ∧ State.reset.live = false ∧ heldRead.pending = [] ∧ heldRead.live = true ∧
    duplex.pending = [] ∧ duplex.live = true ∧ duplex.path.phase = .ready ∧ duplex.events.pulse = none := by decide

theorem witness_heldRead : ∃ h, heldRead.path.phase = .held h ∧ h.access.kind = .read ∧ h.ring = .stream 1 ∧ h.slot = 0 ∧
    h.word = 0 ∧ h.releasable = true ∧ h.access.high = true ∧ h.access.addr = 0x00200 :=
  ⟨_, rfl, rfl, rfl, rfl, rfl, rfl, rfl, rfl⟩

theorem witness_heldWrite : ∃ h, heldWrite.path.phase = .held h ∧ h.access.kind = .write 0x1234 ∧ h.ring = .stream 0 ∧
    h.slot = 4 ∧ h.word = 0 ∧ h.releasable = true ∧ h.access.high = true ∧ h.access.addr = 0x00104 :=
  ⟨_, rfl, rfl, rfl, rfl, rfl, rfl, rfl, rfl⟩

theorem witness_ResetAndSafeTakeNothing : State.reset.live = false ∧ (after (.rstRise 0 false) State.reset).live = false ∧
    (∀ a, Instr.trigEdge ≠ .accessArrival a) ∧ Instr.trigEdge ≠ .pcsOrStrobesHigh ∧ Instr.trigEdge ≠ .rstFall ∧
    (∀ b q, Instr.trigEdge ≠ .rstRise b q) := ⟨rfl, by decide, nofun, nofun, nofun, nofun⟩

theorem witness_MemoryTimeAndPartStateChangeAtTheirStepsOnly : exec .trigEdge duplex = .next (after .trigEdge duplex) := rfl

theorem witness_RstRiseSamplesTheStraps : State.reset.start.part = .reset ∧ ones 3 true % 2 = 1 ∧ ones 15 true % 2 = 1 ∧
    ones 0 false % 2 = 0 ∧ on.start.part ≠ .reset := by decide

theorem witness_CountsAndPositionsAcrossResets : Instr.apply = .resetPart ∨ Instr.apply = .apply := .inr rfl

theorem witness_RstFallEndsEverything : on.start.part ≠ .reset ∧ heldWrite.arb.use.writes = [] ∧
    heldRead.arb.use.writes = [] ∧ (after (.accessArrival (writeOf 0x00300 1)) depositBurst).path.phase =
      .forwarded (accessOf (writeOf 0x00300 1)) .none ∧ depositBurst.path.phase = .ready ∧ depositBurst.arb.use.writes.length = 2 ∧
    firstBurst.arb.use.writes.length = 8 ∧ State.reset.start.part = .reset := by decide

theorem witness_IdentityWriteEndsInStarted : firstBurst.live = true ∧ secondBurst.live = true ∧
    firstBurst.arb.use = .identityFirst firstBurst.arb.use.writes ∧
    secondBurst.arb.use = .identitySecond secondBurst.arb.use.writes ∧ secondBurst.start.part = .starting ∧
    secondBurst.cmd.state = .waiting ∧ ((withRing secondBurst .command 1 0 1).ring .command).fill = 1 ∧
    (secondBurst.ring .command).fill = 0 := by decide

theorem witness_TransparentAccessReachesMemory : State.reset.live = false ∧
    ((readOf 0).poeLow || (readOf 0).pweLow) = true ∧ (readOf 0).pweLow = false ∧ (writeOf 0 1).pweLow = true := by decide

theorem witness_AddressesDecodeToTheirWindows : duplex.controlBase = 0x18000 ∧
    [0x18000, 0x1800F, 0x18010, 0x1808F, 0x18090, 0x1818F, 0x17FFF, 0x18190, 0x00100, 0x0010F, 0x00110, 0x000FF].map
      duplex.decode =
    [.identity, .identity, .ring .command 0 0, .ring .command 15 7, .ring .event 0 0, .ring .event 31 7, .outside, .outside,
      .ring (.stream 0) 0 0, .ring (.stream 0) 15 0, .outside, .outside] := by decide

theorem witness_UnreferredAccessIsForwarded : Arrives (readOf 0x18000) duplex ∧ Arrives (readOf 0x00300) duplex ∧
    Arrives { writeOf 0x00100 1 with pubLow := false, plbLow := false } duplex ∧ heldRead.live = true ∧
    heldRead.path.phase ≠ .ready := by decide

/-- The hypotheses common to the clauses on a transmit ring. -/
theorem witness_TransmitRing :
    let s := fun p c f => withRing duplex (.stream 0) p c f
    Arrives (writeOf 0x0010F 1) (s 15 0 15) ∧ (s 15 0 15).decode 0x0010F = .ring (.stream 0) 15 0 ∧
    (s 15 0 15).ring (.stream 0) = { producer := 15, consumer := 0, fill := 15, lap := some 0 } ∧
    (s 4 4 16).decode 0x00104 = .ring (.stream 0) 4 0 ∧ Filled 16 ((s 4 4 16).ring (.stream 0)) 3 ∧
    ¬ Filled 16 ((s 4 0 4).ring (.stream 0)) 5 ∧ (streamAt 0x00100).length = 16 ∧ isTx 0 = true ∧
    (duplex.stream 0).active = some (streamAt 0x00100) := by decide

theorem witness_TransmitRing_without_a_hold : Arrives (writeOf 0x00104 1)
    ((withRing duplex (.stream 0) 4 4 16).setStream 0 { duplex.stream 0 with
      active := some { streamAt 0x00100 with holdLimit := 0 } }) := by decide

theorem witness_CommandRing :
    Arrives (writeOf 0x18017 0x5A01) on ∧ on.decode 0x18017 = .ring .command 0 7 ∧ lowByte 0x5A01 ≠ 0 ∧
    ((withRing on .command 0 0 16).ring .command).fill = 16 ∧ on.decode 0x1808F = .ring .command 15 7 := by decide

theorem witness_ReceiveRing :
    Arrives (readOf 0x00200) duplex ∧ duplex.decode 0x00200 = .ring (.stream 1) 0 0 ∧ isTx 1 = false ∧
    (duplex.stream 1).active = some (streamAt 0x00200) ∧ (duplex.ring (.stream 1)).fill = 0 ∧
    ((withRing duplex (.stream 1) 1 0 1).ring (.stream 1)).fill = 1 ∧ duplex.decode 0x0020F = .ring (.stream 1) 15 0 := by
  decide

theorem witness_EventRing :
    Arrives (readOf 0x18097) on ∧ on.decode 0x18097 = .ring .event 0 7 ∧ on.decode 0x18090 = .ring .event 0 0 ∧
    (on.ring .event).fill = 0 ∧ ((withRing on .event 1 0 1).ring .event).fill = 1 ∧
    on.decode 0x1809F = .ring .event 1 7 := by decide

/-- An access of the low lane of 0x00300, evaluated by `blocker`; one of the high lane is not. -/
def lowWrite : Access := accessOf { writeOf 0x00300 0x0001 with pubLow := false }

theorem witness_WatchMatchesByItsMode : (blocker.isHit lowWrite 0x0001 = true) ∧ (blocker.after lowWrite 0x0001).matching = true ∧
    blocker.after { lowWrite with high := true, low := false } 0x0001 = blocker := by decide

theorem witness_WatchedWriteIsNotedOrBlocked : Arrives (writeOf 0x00300 0x0101) (duplex.setWatch 2 blocker) ∧
    (duplex.setWatch 2 blocker).decode 0x00300 = .outside := by decide

/-- A posting, a consuming read and an ORDER write in their memory cycles. -/
def inCycle (s : State) (c : BusCycle) : State := after .arbiterGrant (after (.accessArrival c) s)

theorem witness_PassageCompletesTheAccess :
    (inCycle duplex (writeOf 0x00100 1)).path.phase = .forwarded (accessOf (writeOf 0x00100 1)) (.post (.stream 0)) ∧
    (inCycle duplex (writeOf 0x00105 1)).path.phase = .forwarded (accessOf (writeOf 0x00105 1)) (.order 0 5) ∧
    (inCycle duplex (readOf 0x00300)).path.phase = .forwarded (accessOf (readOf 0x00300)) .none ∧
    (inCycle (withRing duplex (.stream 1) 1 0 1) (readOf 0x00200)).path.phase =
      .forwarded (accessOf (readOf 0x00200)) (.consume (.stream 1)) ∧
    (inCycle on (writeOf 0x18017 0x5A01)).path.phase =
      .forwarded (accessOf (writeOf 0x18017 0x5A01)) (.post .command) ∧
    (inCycle on (writeOf 0x18017 0x5A01)).arb.use = .passage ∧ on.cmd.state = .waiting ∧ on.start.part = .operating ∧
    (inCycle duplex (readOf 0x00300)).arb.use = .passage ∧ nopPosted.cmd.state ≠ .waiting := by decide

/-- A posting held on the full command ring, whose oldest record is in slot 0. -/
def heldCommand : State := after (.accessArrival (writeOf 0x18017 0x5A01)) (withRing on .command 0 0 16)

theorem witness_HoldExpiryAndStrobesEndTheAccess : heldWrite.live = true ∧ heldRead.live = true ∧
    duplex.path.phase = .ready ∧ (after .holdExpiry heldRead).path.phase = .ended ∧
    (∃ h, heldCommand.path.phase = .held h ∧ h.ring = .command ∧ h.slot = 0 ∧ h.word = 7 ∧ h.releasable = true ∧
      h.access.kind = .write 0x5A01 ∧ h.access.low = true) :=
  ⟨by decide, by decide, by decide, by decide, _, rfl, rfl, rfl, rfl, rfl, rfl, rfl⟩

theorem witness_ArbiterGrantsByCountAndRank :
    firstBurst.arb.use ≠ .free ∧ duplex.passageWaiting = false ∧ (allRequesters.all fun r => !duplex.requesting r) = true ∧
    contest.live = true ∧ contest.arb.use = .free ∧ contest.passageWaiting = true ∧ contest.requesting .fetch = true ∧
    contest.requesting .record = true ∧ contest.requesting .deposit = false ∧ contest.requesting .command = false ∧
    (allRequesters.all fun r => decide (contest.passedOver r < 2)) = true := by decide

theorem witness_EnginesRequestForEligibleStreams :
    let s := withState (withRing duplex (.stream 0) 1 0 1) 0 .pending
    (s.stream (txOf 0)).active = some (streamAt 0x00100) ∧ s.fetchEligible 0 = true ∧
    (tx s (List.replicate 30 0)).fetchEligible 0 = true ∧ (tx s (List.replicate 31 0)).fetchEligible 0 = false ∧
    (rx (running duplex 1) [.sample 1 0, .sample 2 1]).depositEligible 0 = true ∧
    (rx (running duplex 1) [.sample 1 0]).depositEligible 0 = false ∧
    (rx (running duplex 1) [.sample 1 0, .mark .segEnd 0]).depositEligible 0 = true := by decide

theorem witness_EngineBurstsAreSizedAtTheGrant :
    fetchBurst.arb.use = .fetch { port := 0, reads := [0x00100, 0x00101], ringStands := true, runStands := true } ∧
    depositBurst.arb.use = .deposit
      { port := 0, writes := [(0x00200, 10), (0x00201, 11)], ringStands := true, runStands := true } ∧
    (duplex.stream (txOf 0)).active = some (streamAt 0x00100) ∧ (duplex.ring (.stream 0)).consumer < 16 := by decide

theorem witness_RecordBurstsCarryTheirWords :
    started.live = true ∧ started.arb.use = .free ∧ (after .identityFirstBurstComplete firstBurst).arb.use = .free ∧
    eventBurst.arb.use = .eventRecord eventBurst.arb.use.writes ∧
    nopResult.arb.use = .commandResult nopResult.arb.use.writes ∧ nopRead.arb.use = .commandRead := by decide

/-- The fetch burst whose next word is the run's last, with and without an extension, and one whose ring is gone. -/
def lastWord (extension : Option Nat) : State :=
  fetchBurst.setStream 0 { fetchBurst.stream 0 with limit := some 1, extension := extension }

theorem witness_FetchWordJoinsTheTxFifo :
    fetchBurst.live = true ∧ (fetchBurst.stream 0).limit = none ∧ (lastWord none).arb.use = fetchBurst.arb.use ∧
    (lastWord (some 2)).arb.use = fetchBurst.arb.use ∧ ((lastWord none).stream 0).limit = some 1 ∧
    (fetchBurst.dropClaims 0).arb.use =
      .fetch { port := 0, reads := [0x00100, 0x00101], ringStands := false, runStands := true } ∧
    (withState fetchBurst 0 .idle).arb.use = fetchBurst.arb.use := by decide

/-- The full ring of stream 0 with a posting held on its consumer slot, and the burst that will read that slot. -/
def heldAndFetching : State :=
  after .arbiterGrant (withState heldWrite 0 .pending)

theorem witness_FetchWordReleasesAPosting : heldAndFetching.path.phase = heldWrite.path.phase ∧
    (heldAndFetching.ring (.stream 0)).producer = 4 ∧ (heldAndFetching.ring (.stream 0)).consumer = 4 ∧
    (heldAndFetching.ring (.stream 0)).fill = 16 ∧ heldAndFetching.arb.use =
      .fetch { port := 0, reads := [0x00104, 0x00105], ringStands := true, runStands := true } := by decide

/-- The empty ring of stream 1 with a read held on it, and the burst that will write that slot. -/
def heldAndDepositing : State := after .arbiterGrant (rx (running heldRead 1) [.sample 10 0, .sample 11 1])

theorem witness_DepositWordFillsTheRingAndMarksFollow :
    depositBurst.live = true ∧ (depositBurst.stream 1).state = .running ∧
    lastDeposit.arb.use = .deposit { port := 0, writes := [(0x00201, 11)], ringStands := true, runStands := true } ∧
    (lastDeposit.port 0).rxFifo = [.mark .segStart 9] ∧ (lastDeposit.stream 1).active = some (streamAt 0x00200) ∧
    (lastDeposit.ring (.stream 1)).lap = some 0 ∧ heldAndDepositing.path.phase = heldRead.path.phase ∧
    heldAndDepositing.arb.use = .deposit
      { port := 0, writes := [(0x00200, 10), (0x00201, 11)], ringStands := true, runStands := true } ∧
    (depositBurst.dropClaims 1).arb.use = .deposit
      { port := 0, writes := [(0x00200, 10), (0x00201, 11)], ringStands := false, runStands := true } ∧
    (withState depositBurst 1 .idle).arb.use = depositBurst.arb.use := by decide

/-- The same access, released by nothing any more. -/
def unreleasable (s : State) : State :=
  match s.path.phase with
  | .held h => s.setPhase (.held { h with releasable := false })
  | _ => s

/-- An access held on another ring than that of the burst, and one that no fill releases. -/
theorem witness_HeldAccessStaysHeld :
    let fetching := after .arbiterGrant (withState (withRing heldRead (.stream 0) 3 0 3) 0 .pending)
    let depositing := after .arbiterGrant (rx (running heldWrite 1) [.sample 10 0, .sample 11 1])
    fetching.path = heldRead.path ∧ fetching.arb.use = fetchBurst.arb.use ∧
    (after .fetchWordComplete fetching).path = heldRead.path ∧
    depositing.path = heldWrite.path ∧ depositing.arb.use = heldAndDepositing.arb.use ∧
    (after .depositWordComplete depositing).path = heldWrite.path ∧
    (after .depositWordComplete (unreleasable heldAndDepositing)).path = (unreleasable heldRead).path ∧
    (after .fetchWordComplete (unreleasable heldAndFetching)).path = (unreleasable heldWrite).path ∧
    (after .commandResultWritten { nopResult with path := heldRead.path }).path = heldRead.path := by decide

theorem witness_DepositWordMeetsMarks : lastDeposit.live = true ∧ (lastDeposit.stream (rxOf 0)).state = .running ∧
    (lastDeposit.stream (rxOf 0)).active = some (streamAt 0x00200) ∧
    ((rx lastDeposit [.mark .segStart 9, .mark .segEnd 12]).port 0).rxFifo = [.mark .segStart 9, .mark .segEnd 12] := by decide

/-- The result burst of the record in slot 0 with its ring full and a posting held on it. -/
def heldAndWriting : State :=
  { heldCommand with cmd := nopResult.cmd, arb := nopResult.arb }

theorem witness_CommandRecordIsReadAndItsResultConsumesIt :
    nopRead.live = true ∧ nopRead.arb.use = .commandRead ∧ nopRead.cmd.state = .reading 0 ∧
    nopResult.arb.use = .commandResult nopResult.arb.use.writes ∧ (nopResult.ring .command).fill = 1 ∧
    (nopResult.ring .command).consumer = 0 ∧ (heldAndWriting.ring .command).fill = 16 ∧
    (heldAndWriting.ring .command).producer = 0 ∧ heldAndWriting.live = true := by decide

/-- A record that another command's row does not take: NOP under UNKNOWN_COMMAND and START, a code of none under NOP. -/
theorem witness_CommandRowsNotSelected : Instr.start ∈ commandRows ∧ Instr.unknownCommand ∈ commandRows ∧
    commandFor 0x01 = .nop ∧ commandFor 0x07 = .unknownCommand ∧ nopRead.cmd.state = .reading 0 := by decide

/-- The result of RESET PART with the identity write at each of its phases. -/
def resetResult (phase : IdentityPhase) : State :=
  { nopResult with
    cmd := { nopResult.cmd with state := .writing ⟨0, 0x5A, 0x1F, Vector.replicate 6 0⟩ CommandResult.ok }
    start := { nopResult.start with identity := { phase := phase, owed := false } } }

theorem witness_ResetResultAsksForTheIdentityBlock : (resetResult .idle).live = true ∧
    (resetResult .idle).arb.use = .commandResult nopResult.arb.use.writes ∧ ((resetResult .idle).ring .command).fill = 1 ∧
    (after .commandResultWritten (resetResult .idle)).start.identity = { phase := .firstDue, owed := false } ∧
    (after .commandResultWritten (resetResult .firstDue)).start.identity = { phase := .firstDue, owed := false } ∧
    (after .commandResultWritten (resetResult .secondDue)).start.identity = { phase := .secondDue, owed := true } ∧
    (after .commandResultWritten (resetResult .finishing)).start.identity = { phase := .finishing, owed := true } := by decide

theorem witness_EventRecordMovesTheInterruptLine : eventBurst.live = true ∧
    eventBurst.arb.use = .eventRecord eventBurst.arb.use.writes ∧ (eventBurst.ring .event).producer < 32 ∧
    eventBurst.events.line = .level ∧ pulsing.live = true ∧ pulsing.events.line = .pulse ∧ State.reset.live = false := by decide

/-- A full pending queue. -/
def fullQueue : EventUnit :=
  { on.events with queue := List.replicate 8 { event := ⟨.trigger, 0xFF, 0, 0, 0, 0⟩, carried := 0 }, dropped := 65535 }

theorem witness_EventsAndFaultsAreCounted : on.events.queue.length = 0 ∧ fullQueue.queue.length = 8 ∧
    fullQueue.dropped ≤ 65535 ∧ (on.stream 0).state = .absent ∧ (duplex.stream 0).state ≠ .absent ∧
    (duplex.stream 0).faultCount .order ≤ 65535 := by decide

theorem witness_BoundaryBeginsAFrame : duplex.live = true ∧ (duplex.port 0).active = some typical ∧
    (duplex.port 0).boundaryPosition typical [] = some 0 ∧ duplex.boundaryCanCome 0 typical 0 = true ∧
    (duplex.port 1).active = none ∧ (duplex.port 0).sync ≠ .synced ∧ (slave.port 0).framePos = some 20 ∧
    (slave.port 0).boundaryPosition { typical with role := .slave } (pulseAt 20) = some 20 ∧
    slave.boundaryCanCome 0 { typical with role := .slave } 20 = true ∧
    slave.boundaryCanCome 0 { typical with role := .slave } 19 = false ∧
    slave.boundaryCanCome 0 { typical with role := .slave } 40 = true ∧
    slave.boundaryCanCome 0 { typical with role := .slave } 41 = false ∧
    (slave.port 0).boundaryPosition { typical with role := .slave } [false, false] = none := by decide

/-- The samples `pulseAt` gives make their first sync at their end. -/
theorem witness_SyncsAt : SyncsAt [false, false, true] 1 ∧ SyncsAt ([true, true, false, true].drop 1) 1 := by
  refine ⟨⟨rfl, rfl, rfl, ?_⟩, rfl, rfl, rfl, ?_⟩ <;> intro j h <;> have : j = 0 := by omega
  all_goals subst this; decide

theorem witness_TransmitStreamAtABoundary : CleanBoundary duplex 0 typical [] 0 ∧
    CleanBoundary slave 0 { typical with role := .slave } (pulseAt 40) 40 ∧
    CleanBoundary (withState duplex 0 .pending) 0 typical [] 0 ∧
    CleanBoundary (duplex.setStream 0 { duplex.stream 0 with state := .stopping, stopping := some .starved }) 0 typical [] 0 ∧
    CleanBoundary ((running duplex 0).setStream 0 { (running duplex 0).stream 0 with limitReached := true }) 0 typical [] 0 ∧
    CleanBoundary (running duplex 0) 0 typical [] 0 ∧ (duplex.stream 1).state = .idle := by decide

theorem witness_ReceiveFrameIsAdmittedOrNot : CleanBoundary (running duplex 1) 0 typical [] 0 ∧
    ((running duplex 1).detector 0).active = none ∧ ((running duplex 1).port 0).rxFifo = [] ∧
    ((running duplex 1).stream 1).gateOpen = true ∧ ((running duplex 1).stream 1).limit = some 8 ∧
    CleanBoundary (withState duplex 1 .pending) 0 typical [] 0 ∧ (duplex.stream 1).gateOpen = false ∧
    CleanBoundary (rx (running duplex 1) (List.replicate 31 (.sample 0 0))) 0 typical [] 0 ∧
    CleanBoundary (rx (running duplex 1) [.mark .segEnd 3]) 0 typical [] 0 := by decide

/-- A stream that is offered no frame: IDLE, and STOPPING with a mark at the head. -/
theorem witness_ReceiveStreamWithoutAdmission : CleanBoundary duplex 0 typical [] 0 ∧ (duplex.stream (rxOf 0)).state = .idle ∧
    CleanBoundary (rx (withState duplex 1 .stopping) [.mark .segEnd 3]) 0 typical [] 0 ∧
    ((withState duplex 1 .stopping).stream (rxOf 0)).active = some (streamAt 0x00200) := by decide

/-- Stream 1 RUNNING with two words of its run still to be admitted, its detector not at a block end. -/
def lastFrame (extension : Option Nat) (d : Option DetectorDef) : State :=
  ((running duplex 1).setStream 1 { (running duplex 1).stream 1 with admitted := 6, extension := extension }).setDetector 0
    (DetectorEntry.fresh d)

theorem witness_ReceiveFrameReachesTheLimit : CleanBoundary (lastFrame none none) 0 typical [] 0 ∧
    CleanBoundary (lastFrame (some 1) (some gate)) 0 typical [] 0 ∧ CleanBoundary (lastFrame none (some gate)) 0 typical [] 0 ∧
    ((lastFrame none (some gate)).detector 0).frames + 1 ≠ gate.blockFrames ∧ gate.gating = true ∧
    ((lastFrame none (some gate)).stream 1).gateOpen = true ∧ 1 ≤ typical.channels ∧ (duplex.stream (txOf 0)).state = .idle ∧
    CleanBoundary ((running (duplex.occur 1 .overrun 0) 1).setStream 1 { (running (duplex.occur 1 .overrun 0) 1).stream 1 with
      active := some { streamAt 0x00200 with resume := .cleared } }) 0 typical [] 0 := by decide

theorem witness_DetectorFollowsItsStateTable : 1 ≤ gate.onTime ∧ 1 ≤ gate.offTime ∧ gate.onThreshold ≤ 100 ∧ gate.onTime = 1 ∧
    49 < gate.offThreshold ∧ 1 < gate.offTime ∧ 1 + 1 = gate.offTime := by decide

/-- Stream 1 RUNNING with the gate closed, its detector one frame short of a block. -/
def blockEnd (st : DetectorState) (count peak : Nat) : State :=
  (withState duplex 1 .running).setDetector 0
    { DetectorEntry.fresh (some gate) with state := st, count := count, frames := 7, peak := peak }

theorem witness_BlockEndMovesDetectorAndGate : CleanBoundary (blockEnd .quiet 0 100) 0 typical [] 0 ∧
    CleanBoundary (blockEnd .fading 1 49) 0 typical [] 0 ∧ gate.next .quiet 0 100 = (.present, 0) ∧
    gate.next .fading 1 49 = (.quiet, 0) ∧ ((blockEnd .quiet 0 100).stream 1).gateOpen = false ∧
    CleanBoundary (rx (blockEnd .quiet 0 100) (.sample 1 0 :: List.replicate 6 (.mark .segEnd 0))) 0 typical [] 0 ∧
    CleanBoundary (rx (blockEnd .quiet 0 100) (.sample 1 0 :: List.replicate 7 (.mark .segEnd 0))) 0 typical [] 0 := by decide

/-- The block end that closes the gate, with a sample waiting. -/
def closing : State :=
  let s := rx (blockEnd .fading 1 49) [.sample 1 0]
  s.setStream 1 { s.stream 1 with gateOpen := true }

theorem witness_BlockEndClosesTheGate : CleanBoundary closing 0 typical [] 0 ∧ (closing.stream 1).gateOpen = true ∧
    (closing.port 0).rxFifo = [.sample 1 0] ∧ (closing.stream 1).limit = none ∧ (closing.stream (txOf 0)).state = .idle := by
  decide

/-- The same with the FIFO empty and the frame dropped under CLEARED. -/
def closingHeld : State :=
  let s := (rx closing []).occur 1 .overrun 0
  s.setStream 1 { s.stream 1 with active := some { streamAt 0x00200 with resume := .cleared } }

theorem witness_BlockEndClosesAnEmptyFifo : CleanBoundary closingHeld 0 typical [] 0 ∧ (closingHeld.port 0).rxFifo = [] ∧
    (closingHeld.stream (rxOf 0)).gateOpen = true ∧ ((after (.frameBoundary 0 []) closingHeld).port 0).admitted = false ∧
    ((after (.frameBoundary 0 []) closing).port 0).admitted = true ∧
    ((after (.frameBoundary 0 []) (blockEnd .quiet 0 100)).port 0).admitted = false := by decide

theorem witness_BlockEndMeetsNoBurst : ∀ b, (blockEnd .quiet 0 100).arb.use = .deposit b → b.port ≠ 0 := nofun

theorem test_block_end_closes_the_gate_behind_the_last_frame :
    ((after (.frameBoundary 0 []) closing).port 0).rxFifo = [.sample 1 0, .reserved 0, .reserved 1, .mark .segEnd 0] ∧
    ((after (.frameBoundary 0 []) closing).stream 1).gateOpen = false := by decide

theorem test_limit_closes_the_gate_behind_the_last_frame :
    ((after (.frameBoundary 0 []) (lastFrame none (some gate))).port 0).rxFifo =
      [.reserved 0, .reserved 1, .mark .segEnd 0] ∧
    ((after (.frameBoundary 0 []) (lastFrame none (some gate))).stream 1).limitReached = true := by decide

/-- The SLAVE with an admitted frame under way and its transmit stream at channel 1. -/
def cut (fifo : List Word) : State :=
  let s := running (running slave 0) 1
  (s.setStream 0 { s.stream 0 with k := 1 }).setPort 0
    { s.port 0 with admitted := true, rxFifo := [.sample 5 0, .reserved 1], txFifo := fifo }

theorem witness_EarlySyncPadsAndRealigns : (cut []).live = true ∧ ((cut []).port 0).sync = .synced ∧
    ((cut []).port 0).framePos = some 20 ∧ ((cut []).stream 0).state = .running ∧ ((cut []).port 0).tx = .taking ∧
    ((cut []).stream 0).k = 1 ∧ ((cut []).stream 0).limitReached = false ∧ ((cut [9]).port 0).txFifo.length = 1 ∧
    ((cut []).port 0).admitted = true ∧ ((cut []).detector 0).active = none ∧
    (((cut []).setStream 1 { (cut []).stream 1 with gateOpen := false }).stream 1).gateOpen = false := by decide

/-- The port of `slave`. -/
def slaveDef : PortDef := { typical with role := .slave }

theorem witness_EarlySyncIsABoundaryOfTheRepairedFrame : ((cut [9]).port 0).active = some slaveDef ∧
    ((cut [9]).port 0).boundaryPosition slaveDef (pulseAt 22) = some 22 ∧
    ((cut [9]).port 0).boundaryPosition slaveDef (pulseAt 40) = some 40 ∧
    CleanBoundary (earlySyncRepaired (frameReported (cut [9]) 0 1) 0 slaveDef) 0 slaveDef (pulseAt 40) 40 ∧
    CleanBoundary (earlySyncRepaired (frameReported (cut []) 0 1) 0 slaveDef) 0 slaveDef (pulseAt 40) 40 ∧
    after (.frameBoundary 0 (pulseAt 22)) (cut [9]) =
      after (.frameBoundary 0 (pulseAt 40)) (earlySyncRepaired (frameReported (cut [9]) 0 1) 0 slaveDef) := by decide

/-- The run's last word discarded at the sync; the transmit stream STOPPING at it; the receive stream STOPPING at it. -/
def cutLast : State := (cut [9]).setStream 0 { (cut [9]).stream 0 with limitReached := true }
def cutStopping : State := (cut [9]).setStream 0 { (cut [9]).stream 0 with state := .stopping, stopping := some .stopped }
def cutStoppingRx : State := withState (cut []) 1 .stopping

theorem test_early_sync_ends_runs_and_keeps_padding :
    let s := after (.frameBoundary 0 (pulseAt 22)) cutLast
    let t := after (.frameBoundary 0 (pulseAt 22)) cutStopping
    let u := after (.frameBoundary 0 (pulseAt 22)) cutStoppingRx
    (s.stream 0).state = .idle ∧ (s.stream 0).discarded = 1 ∧ (s.stream 0).taken = 1 ∧
    (t.stream 0).state = .idle ∧ (t.port 0).txFifo = [] ∧ (t.stream 0).discarded = 1 ∧ (t.stream 0).taken = 0 ∧
    (u.stream 1).state = .stopping ∧ (u.port 0).rxFifo = [.sample 5 0, .sample 7 1] := by decide

theorem witness_EarlySyncMeetsRuns : (cutLast.stream (txOf 0)).limitReached = true ∧ (cutLast.port 0).txFifo.length = 1 ∧
    (cutStopping.stream (txOf 0)).state = .stopping ∧ (cutStoppingRx.stream (rxOf 0)).state = .stopping ∧
    ((cut []).stream (rxOf 0)).gateOpen = true ∧ ((cut []).stream (rxOf 0)).limitReached = false ∧
    ((withState cutLast 1 .idle).stream (rxOf 0)).state = .idle ∧ cutLast.live = true := by decide

/-- Both streams RUNNING, between two frames. -/
def between : State := running (running slave 0) 1

theorem witness_FrameWhole : FrameWhole between 0 := ⟨by decide, by decide⟩

theorem witness_ShortAndLateFramesInRuns : (between.port 0).active = some slaveDef ∧ (between.port 0).framePos = some 20 ∧
    (between.port 0).boundaryPosition slaveDef (pulseAt 36) = some 36 ∧
    (between.port 0).boundaryPosition slaveDef (pulseAt 40) = some 40 ∧ slaveDef.check = .exact ∧
    ((after (.frameBoundary 0 (pulseAt 36)) between).stream 1).faultCount .frame = 1 ∧
    ((after (.frameBoundary 0 (pulseAt 36)) between).port 0).rxFifo = [.reserved 0, .reserved 1] ∧
    ((after (.lateFrame 0) between).stream 0).faultCount .frame = 1 ∧
    ((after (.lateFrame 0) between).stream 1).faultCount .frame = 1 := by decide

theorem witness_EarlyCheckReportsNothing :
    let s := between.setPort 0 { between.port 0 with active := some { slaveDef with check := .early } }
    (s.port 0).boundaryPosition { slaveDef with check := .early } (pulseAt 36) = some 36 ∧
    ((after (.frameBoundary 0 (pulseAt 36)) s).stream 1).faultCount .frame = 0 ∧
    ((after (.lateFrame 0) s).port 0).framePos = some 41 ∧ ((after (.lateFrame 0) s).stream 1).faultCount .frame = 0 := by decide

/-- The SLAVE with its transmit stream IDLE and its receive stream ABSENT. -/
def slaveTx : State := slave.setStream 1 (StreamEntry.fresh none 7)

theorem witness_SyncsAndLateFramesAreReported : slaveTx.live = true ∧ (slaveTx.port 0).sync = .synced ∧
    (slaveTx.port 0).framePos = some 20 ∧ (slaveTx.stream (txOf 0)).state = .idle ∧
    (slaveTx.stream (rxOf 0)).state = .absent ∧ (slaveTx.port 0).admitted = false ∧ 16 * typical.channels ≤ typical.frameBits ∧
    ((after (.lateFrame 0) slaveTx).port 0).framePos = some 41 := by decide

theorem witness_ChannelSlotCarriesItsWord : duplex.live = true ∧ (duplex.port 0).framePos = some 0 ∧
    (duplex.port 0).slotsStarted < typical.channels ∧ (duplex.stream 0).state = .idle ∧
    ((running duplex 0).port 0).txFifo = [] ∧ ((tx (running duplex 0) [1]).port 0).txFifo = [1] ∧
    (duplex.port 1).active = none ∧ duplex.channels 0 = 2 := by decide

/-- WAITING with k = 0 and these words in the FIFO. -/
def waiting (f : List Word) : State :=
  (running duplex 0).setPort 0 { duplex.port 0 with tx := .waiting, txFifo := f }

theorem witness_UnderrunWaitsAndEndsByResumingOrStarving :
    (waiting []).live = true ∧ ((waiting []).stream (txOf 0)).state = .running ∧
    ((waiting []).stream (txOf 0)).active = some (streamAt 0x00100) ∧ ((waiting [1]).port 0).txFifo.length = 1 ∧
    ((waiting [1, 2]).port 0).txFifo = [1, 2] ∧ ((waiting [1, 2]).stream (txOf 0)).k = 0 ∧
    ((waiting [1, 2]).port 0).slotsStarted = 0 ∧ ((waiting [1, 2]).stream (txOf 0)).limitReached = false ∧
    ((after (.channelSlotStart 0) (running duplex 0)).stream (txOf 0)).starvation = some 0 := by decide

theorem witness_ChannelWordFillsItsPlace_sdi : ∀ j, (h : j < 16) → (0x0123 : Word).getMsbD j = (sdiOf 0x0123)[j] := by
  intro j h; simp [sdiOf]

theorem witness_ChannelWordFillsItsPlace : (cut []).live = true ∧ ((cut []).port 0).wordsDone < 2 ∧
    ((cut []).port 0).rxFifo = [.sample 5 0] ++ .reserved 1 :: [] ∧ (∀ i, RxEntry.reserved i ∉ [RxEntry.sample 5 0]) ∧
    ((blockEnd .quiet 0 0).detector 0).active = some gate ∧ (duplex.port 1).active = none :=
  ⟨by decide, by decide, by decide, by simp, by decide, by decide⟩

theorem witness_ReceiveRunEndsWhenDrained : (duplex.port 0).rxFifo = [] ∧ (∀ b, duplex.arb.use = .deposit b → b.port ≠ 0) ∧
    (duplex.stream (rxOf 0)).active = some (streamAt 0x00200) ∧ ((withState duplex 1 .stopping).stream (rxOf 0)).state = .stopping ∧
    ((running duplex 1).stream (rxOf 0)).state = .running := ⟨by decide, nofun, by decide, by decide, by decide⟩

theorem witness_TriggerReleasesArmedStreams : duplex.live = true ∧ ((withState duplex 7 .armed).stream 7).state = .armed ∧
    (allStreams.all fun n => (duplex.stream n).state != .armed) = true := by decide

theorem witness_TimeTagCountsByItsSource : on.live = true ∧ on.time.source = .internal ∧
    { on with time := { counter := 0, source := .external } }.time.source = .external := by decide

/-- A record of each code, naming object 0, is a record of `Executing`. -/
theorem witness_Executing : ∀ code ∈ commandTable.map Prod.fst,
    Executing (executing duplex code #v[0, 0, 0, 0, 0, 0]) ⟨2, 0x5A, code, #v[0, 0, 0, 0, 0, 0]⟩ code := by decide

theorem witness_NumbersAreCheckedFirst : 8 ≤ (lowByte 0x0008).toNat ∧ 4 ≤ (lowByte 0x0004).toNat ∧
    (lowByte 0x0007).toNat = (7 : Fin 8).val ∧ (duplex.stream 7).state = .absent := by decide

theorem witness_DefinePortAndStreamStageTheirFields :
    (0x8000 : Word).getLsbD 15 = true ∧ ((0x0001 : Word).extractLsb' 0 4).toNat = 1 ∧
    ((0x0008 : Word).extractLsb' 0 4).toNat = 8 ∧ ((0x0009 : Word).extractLsb' 0 4).toNat = 9 ∧
    (lowByte 0x0207).toNat = 7 ∧ (highByte 0x0207).toNat = 2 ∧ (highByte 0x0300).toNat ∉ [0, 1, 2, 4, 8, 16] ∧
    (lowByte 0x00FA).toNat = 250 ∧ (lowByte 0x00FB).toNat = 251 := by decide

theorem witness_DefineDetectorAndWatchStageTheirFields :
    ((0x0300 : Word).extractLsb' 8 4).toNat = 3 ∧ ((0x0800 : Word).extractLsb' 8 4).toNat = 8 ∧
    ((0x0900 : Word).extractLsb' 8 4).toNat = 9 ∧ ((0x0300 : Word).extractLsb' 8 2).toNat = 3 ∧
    ((0x0200 : Word).extractLsb' 8 2).toNat = 2 := by decide

theorem witness_ApplySetsTheNamedObjects :
    staged.applyWalk (objectSet { slot := 2, tag := 0x5A, code := 0x06, params := #v[0x0103, 0, 0, 0, 0, 0] }) = none := by
  decide

/-- A posting forwarded on the ring of stream 0, and a fetch burst of an IDLE stream 0, each with that stream staged afresh. -/
theorem witness_ApplySetsTheNamedObjects_under_way :
    let o : ObjectSet := objectSet { slot := 2, tag := 0x5A, code := 0x06, params := #v[0x0001, 0, 0, 0, 0, 0] }
    let s := { after (.accessArrival (writeOf 0x00100 1)) duplex with cmd := staged.cmd }
    let t := { withState fetchBurst 0 .idle with cmd := staged.cmd }
    s.applyWalk o = none ∧ s.path.phase = .forwarded (accessOf (writeOf 0x00100 1)) (.post (.stream 0)) ∧
    t.applyWalk o = none ∧ t.arb.use = fetchBurst.arb.use := by decide

/-- Stream 0 with its held posting, and a new window that still holds the address, or one that does not. -/
def redefined (s : State) (n : Fin 8) (d : Option StreamDef) : State :=
  { s with cmd := { s.cmd with staged := { s.cmd.staged with streams := s.cmd.staged.streams.set n.val d } } }

theorem witness_ApplyJudgesTheHeldAccessAgain :
    let o : ObjectSet := objectSet { slot := 2, tag := 0x5A, code := 0x06, params := #v[0x0001, 0, 0, 0, 0, 0] }
    (redefined heldWrite 0 (some (streamAt 0x00104))).applyWalk o = none ∧
    (redefined heldWrite 0 (some (streamAt 0x00100))).applyWalk o = none ∧
    (redefined heldWrite 0 (some (streamAt 0x00400))).applyWalk o = none ∧
    (redefined heldWrite 0 none).applyWalk o = none ∧
    (redefined heldRead 1 (some (streamAt 0x00200))).applyWalk
      (objectSet { slot := 2, tag := 0x5A, code := 0x06, params := #v[0x0002, 0, 0, 0, 0, 0] }) = none ∧
    (redefined heldWrite 0 none).path.phase = heldWrite.path.phase := by decide

/-- The walk of an APPLY with this P0 and P1. -/
def walk (s : State) (p0 p1 : Word) : Option (ResultCode × Nat) :=
  s.applyWalk (objectSet { slot := 2, tag := 0x5A, code := 0x06, params := #v[p0, p1, 0, 0, 0, 0] })

/-- An object of each kind that fails each of its checks, the mask and the address at the edge of what passes. -/
theorem witness_ApplyChecksTheWholeConfiguration_failures :
    let stagedDetector := fun mask => { duplex with cmd := { duplex.cmd with staged := { Staged.none with
      detectors := Staged.none.detectors.set 0 (some { gate with mask := mask }) } } }
    let stagedWatch := fun addr => { duplex with cmd := { duplex.cmd with staged := { Staged.none with
      watches := Staged.none.watches.set 0 (some ⟨addr, 0xFFFF, .any, .each, .note⟩) } } }
    walk (running duplex 0) 0x0001 0 = some (.busy, 0) ∧ walk { running duplex 1 with cmd := staged.cmd } 0x0100 0 = some (.busy, 8) ∧
    walk (running duplex 1) 0x1000 0 = some (.busy, 12) ∧ walk duplex 0x0100 0 = some (.conflict, 0) ∧
    walk (stagedDetector 3) 0x1000 0 = none ∧ walk (stagedDetector 4) 0x1000 0 = some (.conflict, 12) ∧
    walk (stagedWatch 0x17FFF) 0 1 = none ∧ walk (stagedWatch 0x18000) 0 1 = some (.conflict, 16) ∧
    walk (stagedWatch 0x1818F) 0 1 = some (.conflict, 16) ∧ walk (stagedWatch 0x18190) 0 1 = none ∧
    walk (stagedWatch 0x0010F) 0 1 = some (.conflict, 16) ∧ walk (stagedWatch 0x00110) 0 1 = none := by decide

theorem witness_ApplyChecksTheWholeConfiguration :
    duplex.applyWalk (objectSet { slot := 2, tag := 0x5A, code := 0x06, params := #v[0, 0, 0, 0, 0, 0] }) = none ∧
    duplex.streamFits (objectSet { slot := 2, tag := 0x5A, code := 0x06, params := #v[0, 0, 0, 0, 0, 0] }) 0
      (streamAt 0x00100) = true ∧
    staged.applyWalk (objectSet { slot := 2, tag := 0x5A, code := 0x06, params := #v[0x0003, 0, 0, 0, 0, 0] }) =
      some (.conflict, 0) := by decide

theorem witness_StartBeginsARun : (duplex.stream 0).state = .idle ∧ (duplex.stream 1).state = .idle ∧
    (duplex.stream 1).active = some (streamAt 0x00200) ∧ ((running duplex 0).stream 0).state = .running := by decide

theorem witness_StopAndAbort : (duplex.stream 0).active = some (streamAt 0x00100) ∧
    ((withState duplex 0 .armed).stream 0).state = .armed ∧ ((withState duplex 0 .pending).stream 0).state = .pending ∧
    ((running duplex 1).port 0).rxFifo = [] ∧ (running duplex 1).gating 0 = false ∧
    ((rx (running duplex 1) [.sample 1 0]).port 0).rxFifo = .sample 1 0 :: [] ∧
    ((running duplex 1).setDetector 0 (DetectorEntry.fresh (some gate))).gating 0 = true ∧
    ((running duplex 1).stream 1).gateOpen = true ∧ (duplex.stream 0).state = .idle ∧ gated.gating 0 = true ∧
    (gated.stream 1).gateOpen = true ∧ (gated.port 0).rxFifo = [] ∧ (gated.stream 1).active = some (streamAt 0x00200) := by decide

theorem witness_ExtendIsDecidedByTheFirstCase : (on.stream 0).state = .absent ∧ ((running duplex 0).stream 0).limit = some 8 ∧
    ((running duplex 0).stream 0).extension = none ∧ ((running duplex 0).stream 0).limitReached = false ∧
    ((withState duplex 0 .armed).stream 0).limit = none := by decide

theorem witness_LevelAndFlagsAreSet : isTx 0 = true ∧ isTx 1 = false ∧ (on.stream 0).state = .absent ∧
    (duplex.stream 0).state ≠ .absent ∧ (lowByte 0x0103).toNat = 3 ∧ (lowByte 0x0104).toNat = 4 := by decide

theorem witness_Queries : (on.stream 0).state = .absent ∧ (duplex.stream 0).state ≠ .absent ∧
    (0x0100 : Word).getLsbD 8 = true := by decide

theorem witness_PartCommandsSetTimeAndLine : 1 < (2 : Word).toNat ∧ (0 : Word).toNat = TagSource.internal.number ∧
    (1 : Word).toNat = TagSource.external.number ∧ (0x07 : Byte) ∉ commandTable.map Prod.fst ∧ (0x00 : Byte) ∉ commandTable.map Prod.fst := by decide

theorem witness_ResetPartRemovesTheDefinitions : (allStreams.all fun n => !(duplex.stream n).state.inRun) = true ∧
    (executing heldWrite 0x1F #v[0, 0, 0, 0, 0, 0]).path.phase = heldWrite.path.phase ∧
    (executing contest 0x1F #v[0, 0, 0, 0, 0, 0]).path.phase = contest.path.phase := by decide

/-- RESET PART with a posting on its way, and with a burst under way for a run: neither makes a ring effect any more. -/
theorem witness_ResetPartMeetsWhatIsUnderWay :
    let s := executing (after (.accessArrival (writeOf 0x00100 1)) duplex) 0x1F #v[0, 0, 0, 0, 0, 0]
    let t := executing fetchBurst 0x1F #v[0, 0, 0, 0, 0, 0]
    s.path.phase = .forwarded (accessOf (writeOf 0x00100 1)) (.post (.stream 0)) ∧
    (after .resetPart s).path.phase = .forwarded (accessOf (writeOf 0x00100 1)) .none ∧
    t.arb.use = fetchBurst.arb.use ∧ (t.stream 0).state = .pending ∧ (after .resetPart t).arb.use =
      .fetch { port := 0, reads := [0x00100, 0x00101], ringStands := false, runStands := false } := by decide

theorem witness_MemoryStaysCanonical : Memory.wf begun.mem = true ∧ step begun = .next begun.tick := ⟨by decide, rfl⟩

/-- The two invariants hold of more than the state after reset: of STARTING, whose rings and queues are empty. -/
theorem witness_invariants_started : RingsInOrder started ∧ QueuesBounded started := by
  refine ⟨⟨?_, ⟨?_, ?_⟩, ⟨?_, ?_, ?_⟩, ?_⟩, ?_, ?_, ?_, ?_, ?_⟩
  · intro r
    cases r with
    | stream n => revert n; decide
    | command => decide
    | event => decide
  · intro a r h; cases h
  · intro a r h; cases h
  · intro b h; cases h
  · intro b h; cases h
  · intro b h; cases h
  · intro h; exact absurd rfl h
  · decide
  · intro b h; cases h
  · decide
  · decide
  · decide

theorem witness_DefinitionsInRange :
    StreamInRange (streamAt 0x00100) ∧ PortInRange typical ∧ DetectorInRange gate ∧ DefinitionsInRange started := by
  have hs : ∀ n : Fin 8, (started.stream n).active = none ∧ started.cmd.staged.streams[n.val] = none := by decide
  have hp : ∀ p : Fin 4, (started.port p).active = none ∧ started.cmd.staged.ports[p.val] = none := by decide
  have hd : ∀ p : Fin 4, (started.detector p).active = none ∧ started.cmd.staged.detectors[p.val] = none := by decide
  refine ⟨by decide, by decide, by decide, fun n d h => ?_, fun p d h => ?_, fun p d h => ?_⟩
  · simp [hs n] at h
  · simp [hp p] at h
  · simp [hd p] at h

theorem witness_StreamsFollowTheirLifeCycle : step { duplex with pending := [.trigEdge] } = .next (after .trigEdge duplex) := rfl

end Sys2Proof.Tests
end

/-! PROOF. The arbiter's passed-over counts and the engines' round-robin positions (R18, R72): a rise of RST# sets them to
their reset values, and no operation of APPLY or RESET PART touches them. -/

namespace Sys2Proof.Machine

open Sys2Proof

/-- The part of the state that decides whose turn it is: the passed-over counts and the round-robin positions. -/
def State.turns (s : State) : Vector Nat 4 × Engines := (s.arb.counts, s.engines)

theorem turns_eq_iff (s t : State) : t.turns = s.turns ↔ t.arb.counts = s.arb.counts ∧ t.engines = s.engines := by
  simp only [State.turns, Prod.mk.injEq]

/-- A walk over objects keeps the turns when the work at each object does. -/
theorem foldl_turns {α : Type} {f : State → α → State} (hf : ∀ s a, (f s a).turns = s.turns) (l : List α) (s : State) :
    (l.foldl f s).turns = s.turns := by
  induction l generalizing s with
  | nil => rfl
  | cons a l ih => rw [List.foldl_cons, ih, hf]

/-- A command keeps the turns when its effects do, whether it is taken or not. -/
theorem execute_turns {c : Instr} {f : CommandRecord → State → State × CommandResult}
    (hf : ∀ r s, (f r s).1.turns = s.turns) (s : State) : ∃ t, execute c f s = .next t ∧ t.turns = s.turns := by
  by_cases hl : s.live = true
  · cases hs : s.cmd.state with
    | executing r =>
      by_cases hc : commandOfCode r.code = c
      · exact ⟨_, execute_of_selected f hl hs hc, hf r s⟩
      · exact ⟨s, execute_of_other_code f hs hc, rfl⟩
    | _ => exact ⟨s, execute_of_no_record f (by simp [hs]), rfl⟩
  · exact ⟨s, whenLive_still _ s (by simpa using hl), rfl⟩

/-! ### APPLY -/

@[simp] theorem quietDetector_turns (s : State) (p : Fin 4) : (s.quietDetector p).turns = s.turns := rfl
@[simp] theorem applyPort_turns (s : State) (p : Fin 4) : (s.applyPort p).turns = s.turns := rfl
@[simp] theorem applyDetector_turns (s : State) (p : Fin 4) : (s.applyDetector p).turns = s.turns := rfl
@[simp] theorem applyWatch_turns (s : State) (w : Fin 4) : (s.applyWatch w).turns = s.turns := rfl
@[simp] theorem dropClaims_turns (s : State) (n : Fin 8) : (s.dropClaims n).turns = s.turns := rfl
@[simp] theorem forward_turns (s : State) (a : Access) (e : Effect) : (s.forward a e).turns = s.turns := rfl

@[simp] theorem emptyFifo_turns (s : State) (n : Fin 8) : (s.emptyFifo n).turns = s.turns := by
  simp only [State.emptyFifo]; split <;> rfl

/-- Judging a held access again changes the Path Unit's phase, or nothing. -/
theorem rejudgeHeld_cases (s : State) (n : Fin 8) : s.rejudgeHeld n = s ∨ ∃ ph, s.rejudgeHeld n = s.setPhase ph := by
  simp only [State.rejudgeHeld]
  split
  · split
    · split
      · exact .inr ⟨_, rfl⟩
      · split
        · split
          · exact .inr ⟨_, rfl⟩
          · split
            · exact .inr ⟨_, rfl⟩
            · exact .inl rfl
            · exact .inl rfl
        · exact .inr ⟨_, rfl⟩
    · exact .inl rfl
  · exact .inl rfl

@[simp] theorem rejudgeHeld_turns (s : State) (n : Fin 8) : (s.rejudgeHeld n).turns = s.turns := by
  obtain h | ⟨ph, h⟩ := rejudgeHeld_cases s n <;> rw [h]
  rfl

@[simp] theorem applyStream_turns (s : State) (n : Fin 8) : (s.applyStream n).turns = s.turns := by
  have hring : ∀ e v, (((s.dropClaims n).setStream n e).setRing (.stream n) v).turns = s.turns := fun _ _ => rfl
  simp only [State.applyStream, rejudgeHeld_turns]
  split <;> simp [hring]

theorem applyAll_turns (s : State) (o : ObjectSet) : (s.applyAll o).turns = s.turns := by
  simp only [State.applyAll, foldl_turns applyWatch_turns, foldl_turns applyDetector_turns, foldl_turns applyStream_turns,
    foldl_turns applyPort_turns]

theorem applyCommand_turns (r : CommandRecord) (s : State) : (applyCommand r s).1.turns = s.turns := by
  simp only [applyCommand]
  split
  · rfl
  · exact applyAll_turns s _

/-- APPLY keeps the turns (R18, R72). -/
theorem apply_turns (s : State) : ∃ t, exec .apply s = .next t ∧ t.turns = s.turns :=
  execute_turns applyCommand_turns s

/-! ### RESET PART -/

@[simp] theorem abortStream_turns (s : State) (n : Fin 8) (why : EndReason) : (s.abortStream n why).turns = s.turns := by
  simp only [State.abortStream]
  split
  · simp [turns_eq_iff]
  · rfl

theorem endStreams_turns (s : State) : s.endStreams.turns = s.turns :=
  foldl_turns (fun s n => abortStream_turns s n .reset) allStreams s

theorem removeDefinitions_turns (s : State) : s.removeDefinitions.turns = s.turns :=
  foldl_turns dropClaims_turns allStreams s

theorem passThrough_turns (s : State) : s.passThrough.turns = s.turns := by
  simp only [State.passThrough]; split <;> rfl

theorem softReset_turns (s : State) : s.softReset.turns = s.turns := by
  rw [State.softReset, passThrough_turns, removeDefinitions_turns, endStreams_turns]

/-- RESET PART keeps the turns (R18, R72). -/
theorem resetPart_turns (s : State) : ∃ t, exec .resetPart s = .next t ∧ t.turns = s.turns := by
  have hf : ∀ (_ : CommandRecord) (s : State), (doneWith s.softReset).1.turns = s.turns := fun _ s => by
    rw [doneWith, softReset_turns]
  exact execute_turns hf s

/-! ### RST_RISE -/

@[simp] theorem cleared_turns (s : State) (start : StartUp) : (s.cleared start).turns = State.reset.turns := rfl

/-- Out of reset no requester has been passed over (R18). -/
theorem passedOver_of_turns_reset {s : State} (h : s.turns = State.reset.turns) (r : Requester) : s.passedOver r = 0 := by
  obtain ⟨hcounts, -⟩ := (turns_eq_iff _ _).1 h
  cases r <;> simp [State.passedOver, hcounts, State.reset]

/-- A rise of RST# out of RESET gives the turns of reset, in STARTING as in SAFE. -/
theorem rstRise_turns (base : BitVec 4) (bpar : Bool) (s : State) (h : s.start.part = .reset) :
    ∃ t, exec (.rstRise base bpar) s = .next t ∧ t.turns = State.reset.turns := by
  simp [exec, execRstRise, h]

/-- An engine that served port 3 last looks at the ports in number order, so at the stream of port 0 first (R72). -/
theorem nextServed_three (f : Fin 4 → Bool) : nextServed 3 f = [0, 1, 2, 3].find? f := rfl

end Sys2Proof.Machine

namespace Sys2Proof.Proofs

open Sys2Proof Sys2Proof.Machine

/-- Settles O8: RST_RISE gives the turns of reset; for RESET PART and APPLY, each operation they are made of keeps the turns. -/
theorem countsAndPositionsAcrossResets : Obligations.CountsAndPositionsAcrossResets := by
  refine ⟨fun base bpar s hpart => ?_, fun c s hc => ?_⟩
  · obtain ⟨t, hexec, hturns⟩ := rstRise_turns base bpar s hpart
    obtain ⟨-, hengines⟩ := (turns_eq_iff _ _).1 hturns
    refine ⟨t, hexec, passedOver_of_turns_reset hturns, ?_⟩
    rw [hengines]
    exact ⟨rfl, rfl, fun f => ⟨nextServed_three f, nextServed_three f⟩⟩
  · simp only [← turns_eq_iff]
    obtain rfl | rfl := hc
    · exact resetPart_turns s
    · exact apply_turns s

end Sys2Proof.Proofs

/-! PROOF. TRIG and the commands START and EXTEND (R53, R54, R61): how a command that names a stream executes, what the start of a
run sets, the cases of EXTEND, and the bits of a TRIGGER event. -/

namespace Sys2Proof.Machine

open Sys2Proof Sys2Proof.Claims

/-! ### A command that names a stream -/

/-- A command that is taken writes the result its effects give (R139, R142). -/
theorem execute_answers {c : Instr} {f : CommandRecord → State → State × CommandResult} {s t : State} {r : CommandRecord}
    {code : Byte} {res : ResultCode} {detail : Nat} {response : Option (Vector Word 6)}
    (hx : Executing s r code) (hc : commandOfCode code = c) (hf : f r s = (t, ⟨res, word detail, response⟩)) :
    execute c f s = .next (answered t r res detail response) := by
  obtain ⟨hlive, hstate, rfl⟩ := hx
  rw [execute_of_selected f hlive hstate hc, hf]
  rfl

theorem withStream_of_number {r : CommandRecord} {n : Fin 8} (hn : (lowByte (r.p 0)).toNat = n.val) (s : State)
    (f : Fin 8 → State × CommandResult) : withStream r s f = f n := by
  simp [withStream, CommandRecord.number, low8, hn]

theorem withPresent_of_absent {n : Fin 8} {s : State} (h : (s.stream n).state = .absent)
    (f : StreamEntry → State × CommandResult) : withPresent n s f = failWith s .notready n.val := by
  simp [withPresent, h]

theorem withPresent_of_present {n : Fin 8} {s : State} (h : (s.stream n).state ≠ .absent)
    (f : StreamEntry → State × CommandResult) : withPresent n s f = f (s.stream n) := by
  simp [withPresent, h]

/-! ### START -/

/-- Every block but the Stream Table, the Port Table and the detectors is as before the run. -/
theorem beginRun_keeps (s : State) (n : Fin 8) (d : StreamDef) (armed : Bool) :
    let t := s.beginRun n d armed
    t = { s with streams := t.streams, ports := t.ports, detectors := t.detectors } := by
  simp only [State.beginRun]
  split <;> rfl

/-- The stream begins its run; every other entry is as before. -/
theorem beginRun_stream (s : State) (n m : Fin 8) (d : StreamDef) (armed : Bool) :
    (s.beginRun n d armed).stream m =
      if m = n then
        (s.stream n).begun d (s.channels (portOf n)) (s.idleWord (portOf n)) armed (!isTx n && !s.gating (portOf n))
      else s.stream m := by
  simp only [State.beginRun]
  split <;> by_cases h : m = n <;> simp [h, setStream_stream_other]

/-- A transmit run starts with an empty TX FIFO, TAKING; a receive run with an empty RX FIFO and no frame admitted (R53, R85). -/
theorem beginRun_port (s : State) (n : Fin 8) (q : Fin 4) (d : StreamDef) (armed : Bool) :
    (s.beginRun n d armed).port q =
      if q = portOf n then
        if isTx n then { s.port q with txFifo := [], tx := .taking } else { s.port q with rxFifo := [], admitted := false }
      else s.port q := by
  simp only [State.beginRun]
  split <;> by_cases h : q = portOf n <;> simp [h, setPort_port_other]

/-- The start of a receive run makes the port's detector QUIET (R112); that of a transmit run leaves it. -/
theorem beginRun_detector (s : State) (n : Fin 8) (q : Fin 4) (d : StreamDef) (armed : Bool) :
    (s.beginRun n d armed).detector q =
      if q = portOf n ∧ isTx n = false then DetectorEntry.fresh (s.detector q).active else s.detector q := by
  simp only [State.beginRun]
  split <;> by_cases h : q = portOf n <;> simp_all [setDetector_detector_other]

theorem startCommand_of_idle {s : State} {r : CommandRecord} {n : Fin 8} {d : StreamDef}
    (hn : (lowByte (r.p 0)).toNat = n.val) (hidle : (s.stream n).state = .idle) (hd : (s.stream n).active = some d) :
    startCommand r s = doneWith (s.beginRun n d ((r.p 0).getLsbD 8)) := by
  simp [startCommand, withStream_of_number hn, withPresent, hidle, hd, bit]

theorem startCommand_of_absent {s : State} {r : CommandRecord} {n : Fin 8} (hn : (lowByte (r.p 0)).toNat = n.val)
    (habsent : (s.stream n).state = .absent) : startCommand r s = failWith s .notready n.val := by
  rw [startCommand, withStream_of_number hn, withPresent_of_absent habsent]

/-- In any state of a run START is refused (R53). -/
theorem startCommand_of_inRun {s : State} {r : CommandRecord} {n : Fin 8} (hn : (lowByte (r.p 0)).toNat = n.val)
    (hrun : (s.stream n).state.inRun = true) : startCommand r s = failWith s .busy n.val := by
  have hpresent : (s.stream n).state ≠ .absent := fun h => by simp [h, StreamState.inRun] at hrun
  have hidle : (s.stream n).state ≠ .idle := fun h => by simp [h, StreamState.inRun] at hrun
  rw [startCommand, withStream_of_number hn, withPresent_of_present hpresent]
  split
  · contradiction
  · rfl

/-! ### EXTEND -/

/-- On a stream that is not ABSENT, the cases of R61 in their order. -/
theorem extendCommand_of_present {s : State} {r : CommandRecord} {n : Fin 8} (hn : (lowByte (r.p 0)).toNat = n.val)
    (hpresent : (s.stream n).state ≠ .absent) :
    extendCommand r s =
      let e := s.stream n
      if (r.p 1).toNat = 0 then failWith s .invalid 1
      else if e.state = .idle ∨ e.state = .stopping ∨ e.limitReached = true then failWith s .late 0
      else if e.limit = none then failWith s .invalid 0
      else if e.extension ≠ none then failWith s .busy n.val
      else doneWith (s.setStream n { e with extension := some (r.p 1).toNat }) := by
  rw [extendCommand, withStream_of_number hn, withPresent_of_present hpresent]

theorem extendCommand_of_absent {s : State} {r : CommandRecord} {n : Fin 8} (hn : (lowByte (r.p 0)).toNat = n.val)
    (habsent : (s.stream n).state = .absent) : extendCommand r s = failWith s .notready n.val := by
  rw [extendCommand, withStream_of_number hn, withPresent_of_absent habsent]

/-! ### TRIG -/

/-- A power of two above a number sets its own bit and keeps the others: the sum is a bitwise or. -/
theorem testBit_add_two_pow {x k : Nat} (hx : x < 2 ^ k) (i : Nat) :
    (x + 2 ^ k).testBit i = true ↔ x.testBit i = true ∨ k = i := by
  have hor : 2 ^ k + x = 2 ^ k ||| x := by
    have h := Nat.two_pow_add_eq_or_of_lt hx 1
    rwa [Nat.mul_one] at h
  rw [Nat.add_comm, hor, Nat.testBit_or, Bool.or_eq_true, Nat.testBit_two_pow, decide_eq_true_iff, or_comm]

/-- In number order each stream's power of two stands above what has been added so far, so its bit is still clear. -/
theorem testBit_foldl_add_two_pow {ns : List (Fin 8)} (hns : ns.Pairwise (· < ·)) {acc : Nat}
    (hacc : ∀ n ∈ ns, acc < 2 ^ n.val) (i : Nat) :
    (ns.foldl (fun acc n => acc + 2 ^ n.val) acc).testBit i = true ↔ acc.testBit i = true ∨ ∃ n ∈ ns, n.val = i := by
  induction ns generalizing acc with
  | nil => simp only [List.foldl_nil, List.not_mem_nil, false_and, exists_false, or_false]
  | cons n ns ih =>
    obtain ⟨hlt, hns⟩ := List.pairwise_cons.1 hns
    have hn : acc < 2 ^ n.val := hacc n List.mem_cons_self
    have hnext : ∀ m ∈ ns, acc + 2 ^ n.val < 2 ^ m.val := fun m hm => by
      have hpow : 2 ^ (n.val + 1) ≤ 2 ^ m.val := Nat.pow_le_pow_right (by decide) (hlt m hm)
      omega
    rw [List.foldl_cons, ih hns hnext, testBit_add_two_pow hn, or_assoc]
    simp only [List.mem_cons, exists_eq_or_imp]

/-- Bit i is set for the stream with that number, if the list is in number order. -/
theorem testBit_streamBits {ns : List (Fin 8)} (hns : ns.Pairwise (· < ·)) (i : Nat) :
    (streamBits ns).testBit i = true ↔ ∃ n ∈ ns, n.val = i := by
  rw [streamBits, testBit_foldl_add_two_pow hns (fun n _ => Nat.two_pow_pos n.val), Nat.zero_testBit]
  simp only [Bool.false_eq_true, false_or]

/-- The bits of eight streams fill the low byte. -/
theorem streamBits_lt {ns : List (Fin 8)} (hns : ns.Pairwise (· < ·)) : streamBits ns < 256 := by
  refine Nat.lt_pow_two_of_testBit (n := 8) _ fun i hi => ?_
  rw [Bool.eq_false_iff, ne_eq, testBit_streamBits hns]
  rintro ⟨n, -, rfl⟩
  omega

/-- The word for a list of streams has the bits of its members. -/
theorem getLsbD_streamBits {ns : List (Fin 8)} (hns : ns.Pairwise (· < ·)) (m : Fin 8) :
    (word (streamBits ns)).getLsbD m.val = true ↔ m ∈ ns := by
  have hm : m.val < 16 := by omega
  rw [word, BitVec.getLsbD_ofNat, decide_eq_true hm, Bool.true_and, testBit_streamBits hns]
  simp only [Fin.val_inj, exists_eq_right]

theorem allStreams_ordered : allStreams.Pairwise (· < ·) := by decide

theorem mem_allStreams : ∀ n : Fin 8, n ∈ allStreams := by decide

theorem armedStreams_ordered (s : State) : s.armedStreams.Pairwise (· < ·) := allStreams_ordered.filter _

theorem mem_armedStreams (s : State) (n : Fin 8) : n ∈ s.armedStreams ↔ (s.stream n).state = .armed := by
  simp only [State.armedStreams, List.mem_filter, mem_allStreams, true_and, beq_iff_eq]

theorem armedStreams_eq_nil_iff (s : State) : s.armedStreams = [] ↔ ∀ n, (s.stream n).state ≠ .armed := by
  simp only [List.eq_nil_iff_forall_not_mem, mem_armedStreams, ne_eq]

theorem triggered_eq (e : StreamEntry) : e.triggered = if e.state = .armed then { e with state := .pending } else e := by
  cases h : e.state <;> simp [StreamEntry.triggered, h]

/-- A change made to every entry is made to each. -/
theorem stream_of_map8 {s t : State} {f : StreamEntry → StreamEntry} (h : t.streams = map8 f s.streams) (n : Fin 8) :
    t.stream n = f (s.stream n) := by
  simp [State.stream, h, map8_eq_map]

/-- The state a TRIG edge leaves when streams are ARMED (R54). -/
def State.released (s : State) : State :=
  { s with streams := map8 StreamEntry.triggered s.streams }.raisePart .trigger partSource (word (streamBits s.armedStreams)) 0 0

theorem exec_trigEdge (s : State) :
    exec .trigEdge s = whenLive (fun s => if s.armedStreams = [] then s else s.released) s := by
  simp only [exec, execTrigEdge]
  congr 1
  funext s
  split
  · next h => rw [if_pos h]
  · next h => rw [if_neg h, State.released]

theorem trigEdge_of_armed {s : State} (hlive : s.live = true) (h : s.armedStreams ≠ []) :
    exec .trigEdge s = .next s.released := by
  rw [exec_trigEdge, whenLive_live _ s hlive, if_neg h]

/-- With no stream ARMED, and in RESET and SAFE, a TRIG edge has no effect. -/
theorem trigEdge_of_none {s : State} (h : s.live = false ∨ s.armedStreams = []) : exec .trigEdge s = .next s := by
  rw [exec_trigEdge]
  obtain h | h := h
  · exact whenLive_still _ s h
  · simp [whenLive, h]

end Sys2Proof.Machine

namespace Sys2Proof.Proofs

open Sys2Proof Sys2Proof.Machine Sys2Proof.Claims

/-- Settles O51: the cases of R61 are the branches of the command, in their order. -/
theorem extendIsDecidedByTheFirstCase : Obligations.ExtendIsDecidedByTheFirstCase := by
  intro s r n hx hn e E late
  refine ⟨fun habsent => ?_, fun hpresent hE => ?_, fun hpresent hE hlate => ?_, fun hpresent hE hlate hl => ?_,
    fun l f hpresent hE hlate hl hf => ?_, fun l hpresent hE hlate hl hf => ?_⟩ <;>
    refine execute_answers hx rfl ?_
  · exact extendCommand_of_absent hn habsent
  all_goals rw [extendCommand_of_present hn hpresent]
  · exact if_pos hE
  · exact (if_neg hE).trans (if_pos hlate)
  · exact (if_neg hE).trans ((if_neg hlate).trans (if_pos hl))
  all_goals have hlimit : e.limit ≠ none := by simp [hl]
  · exact (if_neg hE).trans ((if_neg hlate).trans ((if_neg hlimit).trans (if_pos (by simp [e, hf]))))
  · exact (if_neg hE).trans ((if_neg hlate).trans ((if_neg hlimit).trans (if_neg (by simp [e, hf]))))

/-- Settles O48: of an IDLE stream START is `beginRun`, read off table by table; in every other state it is refused. -/
theorem startBeginsARun : Obligations.StartBeginsARun := by
  refine ⟨fun s r n hx hn habsent => execute_answers hx rfl (startCommand_of_absent hn habsent), ?_⟩
  intro s r n hx hn e p
  refine ⟨fun d hidle hd => ⟨s.beginRun n d ((r.p 0).getLsbD 8), ?_⟩, fun hstate => ?_⟩
  · refine ⟨execute_answers hx rfl (startCommand_of_idle hn hidle hd), beginRun_keeps .., fun m hm => ?_, fun q hq => ?_, ?_,
      fun htx => ?_, fun hrx => ?_⟩
    · rw [beginRun_stream, if_neg hm]
    · exact ⟨by rw [beginRun_port, if_neg hq], by rw [beginRun_detector, if_neg (fun h => hq h.1)]⟩
    · rw [beginRun_stream, if_pos rfl]
      rfl
    · exact ⟨by simp [beginRun_port, p, htx], by simp [beginRun_detector, htx]⟩
    · exact ⟨by simp [beginRun_port, p, hrx], by simp [beginRun_detector, p, hrx, DetectorEntry.fresh]⟩
  · have hrun : (s.stream n).state.inRun = true := by
      obtain h | h | h | h := hstate <;> rw [h] <;> rfl
    exact execute_answers hx rfl (startCommand_of_inRun hn hrun)

/-- Settles O40: with streams ARMED the edge leaves `State.released`, whose TRIGGER carries the sum of their powers of two. -/
theorem triggerReleasesArmedStreams : Obligations.TriggerReleasesArmedStreams := by
  refine ⟨fun s hlive ⟨n, hn⟩ => ?_, fun s h => trigEdge_of_none (h.imp_right (armedStreams_eq_nil_iff s).2)⟩
  have harmed : s.armedStreams ≠ [] := List.ne_nil_of_mem ((mem_armedStreams s n).2 hn)
  have hordered := armedStreams_ordered s
  refine ⟨s.released, word (streamBits s.armedStreams), trigEdge_of_armed hlive harmed, rfl, fun m => ?_, rfl, fun m => ?_, ?_⟩
  · rw [← triggered_eq]
    exact stream_of_map8 rfl m
  · rw [getLsbD_streamBits hordered, mem_armedStreams]
  · rw [word, BitVec.toNat_ofNat]
    exact Nat.lt_of_le_of_lt (Nat.mod_le ..) (streamBits_lt hordered)

end Sys2Proof.Proofs

/-! PROOF. The state table of a Signal Detector (R115): QUIET and PRESENT move as ONSET and FADING do at a state count of 0, so
the twelve rows are the three of ONSET and the three of FADING, each used twice. -/

namespace Sys2Proof.Machine

variable {d : DetectorDef} {count peak : Nat}

/-- The block that leaves QUIET is the first of an onset. -/
theorem next_quiet : d.next .quiet count peak = d.next .onset 0 peak := rfl

/-- The block that leaves PRESENT is the first of a fading. -/
theorem next_present : d.next .present count peak = d.next .fading 0 peak := rfl

/-! ### An onset -/

theorem next_onset_of_not_signal (h : ¬ d.onThreshold ≤ peak) : d.next .onset count peak = (.quiet, 0) := if_neg h

theorem next_onset_of_lt (h : d.onThreshold ≤ peak) (hcount : count + 1 < d.onTime) :
    d.next .onset count peak = (.onset, count + 1) :=
  (if_pos h).trans (if_pos hcount)

theorem next_onset_of_eq (h : d.onThreshold ≤ peak) (hcount : count + 1 = d.onTime) :
    d.next .onset count peak = (.present, 0) :=
  (if_pos h).trans (if_neg (Nat.not_lt.2 (Nat.le_of_eq hcount.symm)))

/-! ### A fading -/

theorem next_fading_of_not_silence (h : ¬ peak < d.offThreshold) : d.next .fading count peak = (.present, 0) := if_neg h

theorem next_fading_of_lt (h : peak < d.offThreshold) (hcount : count + 1 < d.offTime) :
    d.next .fading count peak = (.fading, count + 1) :=
  (if_pos h).trans (if_pos hcount)

theorem next_fading_of_eq (h : peak < d.offThreshold) (hcount : count + 1 = d.offTime) :
    d.next .fading count peak = (.quiet, 0) :=
  (if_pos h).trans (if_neg (Nat.not_lt.2 (Nat.le_of_eq hcount.symm)))

end Sys2Proof.Machine

namespace Sys2Proof.Proofs

open Sys2Proof Sys2Proof.Machine

/-- Settles O32: the rows of QUIET and PRESENT are those of ONSET and FADING at a state count of 0. -/
theorem detectorFollowsItsStateTable : Obligations.DetectorFollowsItsStateTable := by
  intro d count peak _ _ signal silence
  rw [next_quiet, next_present]
  exact ⟨next_onset_of_lt, fun h hone => next_onset_of_eq h hone.symm, next_onset_of_not_signal,
    next_onset_of_lt, next_onset_of_eq, next_onset_of_not_signal,
    next_fading_of_lt, fun h hone => next_fading_of_eq h hone.symm, next_fading_of_not_silence,
    next_fading_of_lt, next_fading_of_eq, next_fading_of_not_silence⟩

end Sys2Proof.Proofs

/-! PROOF. What a watch evaluates and matches (R130), bit by bit: the model masks words, the manual names the mask bits that lie in
a written lane. -/

namespace Sys2Proof.Machine

/-! ### The taking-part bits -/

theorem getLsbD_highLane : ∀ i < 16, (0xFF00 : Word).getLsbD i = decide (8 ≤ i) := by decide

theorem getLsbD_lowLane : ∀ i < 16, (0x00FF : Word).getLsbD i = decide (i < 8) := by decide

theorem getLsbD_laneMask (a : Access) {i : Nat} (hi : i < 16) :
    a.laneMask.getLsbD i = true ↔ (8 ≤ i ∧ a.high = true) ∨ (i < 8 ∧ a.low = true) := by
  have hhigh : (if a.high then 0xFF00 else 0 : Word).getLsbD i = (decide (8 ≤ i) && a.high) := by
    cases a.high with
    | false => simp
    | true => simpa using getLsbD_highLane i hi
  have hlow : (if a.low then 0x00FF else 0 : Word).getLsbD i = (decide (i < 8) && a.low) := by
    cases a.low with
    | false => simp
    | true => simpa using getLsbD_lowLane i hi
  rw [Access.laneMask, BitVec.getLsbD_or, hhigh, hlow]
  simp

/-- Bit i takes part: a mask bit that lies in a written lane (R130). -/
def WatchDef.TakesPart (d : WatchDef) (a : Access) (i : Nat) : Prop :=
  d.mask.getLsbD i = true ∧ ((8 ≤ i ∧ a.high = true) ∨ (i < 8 ∧ a.low = true))

variable {e : WatchEntry} {d : WatchDef} {a : Access} {data : Word}

/-- The masked word holds the taking-part bits; a mask bit is below 16 by itself. -/
theorem getLsbD_mask_and_laneMask (i : Nat) : (d.mask &&& a.laneMask).getLsbD i = true ↔ d.TakesPart a i := by
  rw [BitVec.getLsbD_and, Bool.and_eq_true]
  exact and_congr_right fun hmask => getLsbD_laneMask a (BitVec.lt_of_getLsbD hmask)

/-! ### A masked word, bit by bit -/

theorem and_eq_zero_iff_getLsbD {w : Nat} {x y : BitVec w} :
    x &&& y = 0 ↔ ∀ i, i < w → x.getLsbD i = true → y.getLsbD i = false := by
  simp [BitVec.eq_of_getLsbD_eq_iff]

theorem and_eq_left_iff_getLsbD {w : Nat} {x y : BitVec w} :
    x &&& y = x ↔ ∀ i, i < w → x.getLsbD i = true → y.getLsbD i = true := by
  simp [BitVec.eq_of_getLsbD_eq_iff]

theorem and_ne_zero_iff_getLsbD {w : Nat} {x y : BitVec w} :
    x &&& y ≠ 0 ↔ ∃ i, i < w ∧ x.getLsbD i = true ∧ y.getLsbD i = true := by
  rw [Ne, and_eq_zero_iff_getLsbD]
  simp

/-! ### Evaluation and match -/

/-- The watch evaluates the write: same address, and at least one bit takes part (R130). -/
def WatchDef.Evaluated (d : WatchDef) (a : Access) : Prop := d.addr = a.addr ∧ ∃ i, i < 16 ∧ d.TakesPart a i

/-- The written data match by the mode, judged over the taking-part bits (R130). -/
def WatchDef.Matched (d : WatchDef) (a : Access) (data : Word) : Prop :=
  match d.mode with
  | .any => ∃ i, i < 16 ∧ d.TakesPart a i ∧ data.getLsbD i = true
  | .all => ∀ i, i < 16 → d.TakesPart a i → data.getLsbD i = true
  | .none => ∀ i, i < 16 → d.TakesPart a i → data.getLsbD i = false

theorem evaluates_iff : d.evaluates a = true ↔ d.Evaluated a := by
  have hpart : d.mask &&& a.laneMask ≠ 0 ↔ ∃ i, i < 16 ∧ d.TakesPart a i := by
    simp only [and_ne_zero_iff_getLsbD, ← getLsbD_mask_and_laneMask, BitVec.getLsbD_and, Bool.and_eq_true]
  simp only [WatchDef.evaluates, WatchDef.Evaluated, Bool.and_eq_true, beq_iff_eq, bne_iff_ne, hpart]

theorem isMatch_iff : d.isMatch a data = true ↔ d.Matched a data := by
  unfold WatchDef.isMatch WatchDef.Matched
  simp only [← getLsbD_mask_and_laneMask]
  cases d.mode with
  | any => exact bne_iff_ne.trans and_ne_zero_iff_getLsbD
  | all => exact beq_iff_eq.trans and_eq_left_iff_getLsbD
  | none => exact beq_iff_eq.trans and_eq_zero_iff_getLsbD

/-! ### The entry of a present watch -/

theorem isHit_iff (h : e.active = some d) :
    e.isHit a data = true ↔ d.Evaluated a ∧ d.Matched a data ∧ (d.trigger = .each ∨ e.matching = false) := by
  simp [WatchEntry.isHit, h, evaluates_iff, isMatch_iff, and_assoc]

theorem after_of_not_evaluated (h : e.active = some d) (hev : ¬ d.Evaluated a) : e.after a data = e := by
  simp [WatchEntry.after, h, evaluates_iff, hev]

theorem after_of_evaluated (h : e.active = some d) (hev : d.Evaluated a) :
    e.after a data = { e with matching := d.isMatch a data } := by
  simp [WatchEntry.after, h, evaluates_iff, hev]

end Sys2Proof.Machine

namespace Sys2Proof.Proofs

open Sys2Proof Sys2Proof.Machine

/-- Settles O16: the model's masked comparisons, read bit by bit, are the manual's evaluation and match. -/
theorem watchMatchesByItsMode : Obligations.WatchMatchesByItsMode := by
  intro e d a data hactive
  refine ⟨isHit_iff hactive, after_of_not_evaluated hactive, fun hev => ?_⟩
  rw [after_of_evaluated hactive hev]
  exact ⟨rfl, isMatch_iff⟩

end Sys2Proof.Proofs

/-! PROOF. The commands DEFINE PORT, DEFINE STREAM, DEFINE DETECTOR and DEFINE WATCH (R143 to R148): what they all do with the
fields of their record, and for each of them the order in which the fields are checked. -/

namespace Sys2Proof.Machine

open Sys2Proof Sys2Proof.Claims

/-! ### The number of the object -/

theorem number_of_le {r : CommandRecord} {count : Nat} (h : count ≤ (lowByte (r.p 0)).toNat) : r.number count = none :=
  dif_neg (Nat.not_lt.2 h)

theorem withObject_of_number {r : CommandRecord} {p : Fin 4} (hp : (lowByte (r.p 0)).toNat = p.val) (s : State)
    (f : Fin 4 → State × CommandResult) : withObject r s f = f p := by
  simp [withObject, CommandRecord.number, low8, hp]

/-- A command whose effects go through `withStream` checks the number of its stream. -/
theorem numberChecked_of_withStream {i : Instr} {code : Byte} {f : CommandRecord → State → Fin 8 → State × CommandResult}
    (hexec : exec i = execute i fun r s => withStream r s (f r s)) (hcode : commandOfCode code = i) :
    NumberChecked i code 8 := by
  intro s r hx hle
  rw [hexec]
  refine execute_answers hx hcode ?_
  rw [withStream, number_of_le hle]
  rfl

/-- A command whose effects go through `withObject` checks the number of its port, detector or watch. -/
theorem numberChecked_of_withObject {i : Instr} {code : Byte} {f : CommandRecord → State → Fin 4 → State × CommandResult}
    (hexec : exec i = execute i fun r s => withObject r s (f r s)) (hcode : commandOfCode code = i) :
    NumberChecked i code 4 := by
  intro s r hx hle
  rw [hexec]
  refine execute_answers hx hcode ?_
  rw [withObject, number_of_le hle]
  rfl

/-! ### What every DEFINE does -/

/-- The effects of a DEFINE on its object (R144): without the presence flag the staged copy is made absent; with it the copy is
set from the fields, or the index of the first word out of range is the detail of INVALID. -/
def defineObject {α : Type} (s : State) (present : Bool) (fields : Except Nat α) (stage : Option α → State) :
    State × CommandResult :=
  if present then
    match fields with
    | .ok d => doneWith (stage (some d))
    | .error i => failWith s .invalid i
  else doneWith (stage none)

theorem definePort_eq_defineObject {r : CommandRecord} {p : Fin 4} (hp : (lowByte (r.p 0)).toNat = p.val) (s : State) :
    definePort r s = defineObject s r.present (portFields r) (s.stagePort p) := by
  rw [definePort, withObject_of_number hp]
  cases portFields r <;> rfl

theorem defineStream_eq_defineObject {r : CommandRecord} {n : Fin 8} (hn : (lowByte (r.p 0)).toNat = n.val) (s : State) :
    defineStream r s = defineObject s r.present (streamFields r) (s.stageStream n) := by
  rw [defineStream, withStream_of_number hn]
  cases streamFields r <;> rfl

theorem defineDetector_eq_defineObject {r : CommandRecord} {p : Fin 4} (hp : (lowByte (r.p 0)).toNat = p.val) (s : State) :
    defineDetector r s = defineObject s r.present (detectorFields r) (s.stageDetector p) := by
  rw [defineDetector, withObject_of_number hp]
  cases detectorFields r <;> rfl

theorem defineWatch_eq_defineObject {r : CommandRecord} {w : Fin 4} (hw : (lowByte (r.p 0)).toNat = w.val) (s : State) :
    defineWatch r s = defineObject s r.present (watchFields r) (s.stageWatch w) := by
  rw [defineWatch, withObject_of_number hw]
  cases watchFields r <;> rfl

/-- The answers of a DEFINE that is taken, by the presence flag and by what its fields give. -/
theorem define_answers {α : Type} {c : Instr} {f : CommandRecord → State → State × CommandResult} {s : State}
    {r : CommandRecord} {code : Byte} {fields : Except Nat α} {stage : Option α → State} (hx : Executing s r code)
    (hc : commandOfCode code = c) (hf : f r s = defineObject s r.present fields stage) :
    ((r.p 0).getLsbD 15 = false → execute c f s = .next (answered (stage none) r .done 0 none)) ∧
    ((r.p 0).getLsbD 15 = true →
      (∀ i, fields = .error i → execute c f s = .next (answered s r .invalid i none)) ∧
      (∀ d, fields = .ok d → execute c f s = .next (answered (stage (some d)) r .done 0 none))) := by
  refine ⟨fun habsent => ?_, fun hpresent => ⟨fun i hi => ?_, fun d hd => ?_⟩⟩ <;>
    refine execute_answers hx hc (hf.trans ?_)
  · exact if_neg (Bool.eq_false_iff.1 habsent)
  · rw [hi]
    exact if_pos hpresent
  · rw [hd]
    exact if_pos hpresent

/-! ### The checks of the fields, in their order

A DEFINE checks its words from the first up: the lemma for a word assumes that those before it are in range. -/

section Fields

variable {r : CommandRecord}

/-! DEFINE PORT (R145). -/

theorem portFields_of_channels (h : field (r.p 1) 0 4 < 1 ∨ 8 < field (r.p 1) 0 4) : portFields r = .error 1 :=
  if_pos h

theorem portFields_of_frameBits (hC : 1 ≤ field (r.p 1) 0 4) (hC' : field (r.p 1) 0 4 ≤ 8)
    (h : (r.p 2).toNat < 16 * field (r.p 1) 0 4 ∨ 256 < (r.p 2).toNat) : portFields r = .error 2 :=
  (if_neg (by omega)).trans (if_pos h)

theorem portFields_of_divider (hC : 1 ≤ field (r.p 1) 0 4) (hC' : field (r.p 1) 0 4 ≤ 8)
    (hL : 16 * field (r.p 1) 0 4 ≤ (r.p 2).toNat) (hL' : (r.p 2).toNat ≤ 256)
    (h : (r.p 3).toNat < 1 ∨ 256 < (r.p 3).toNat) : portFields r = .error 3 :=
  (if_neg (by omega)).trans ((if_neg (by omega)).trans (if_pos h))

theorem portFields_of_good (hC : 1 ≤ field (r.p 1) 0 4) (hC' : field (r.p 1) 0 4 ≤ 8)
    (hL : 16 * field (r.p 1) 0 4 ≤ (r.p 2).toNat) (hL' : (r.p 2).toNat ≤ 256)
    (hD : 1 ≤ (r.p 3).toNat) (hD' : (r.p 3).toNat ≤ 256) :
    portFields r = .ok
      { role := if bit (r.p 1) 8 then .slave else .master, channels := field (r.p 1) 0 4, frameBits := (r.p 2).toNat
        divider := (r.p 3).toNat, shape := if bit (r.p 1) 9 then .span else .pulse
        check := if bit (r.p 1) 10 then .exact else .early, idle := r.p 4 } :=
  (if_neg (by omega)).trans ((if_neg (by omega)).trans (if_neg (by omega)))

/-! DEFINE STREAM (R146). -/

theorem streamFields_of_topOrBurst (h : ¬ (low8 (r.p 2) ≤ 7 ∧ high8 (r.p 2) ∈ burstCodes)) : streamFields r = .error 2 :=
  if_pos ((Classical.not_and_iff_not_or_not.1 h).imp_left Nat.not_le.1)

theorem streamFields_of_length (h2 : low8 (r.p 2) ≤ 7 ∧ high8 (r.p 2) ∈ burstCodes)
    (h : ¬ (16 ≤ (r.p 3).toNat ∧ (r.p 3).toNat ≤ 32768)) : streamFields r = .error 3 :=
  (if_neg (by simpa using h2)).trans (if_pos (by omega))

theorem streamFields_of_hold (h2 : low8 (r.p 2) ≤ 7 ∧ high8 (r.p 2) ∈ burstCodes)
    (h3 : 16 ≤ (r.p 3).toNat ∧ (r.p 3).toNat ≤ 32768) (h : 250 < low8 (r.p 4)) : streamFields r = .error 4 :=
  (if_neg (by simpa using h2)).trans ((if_neg (by omega)).trans (if_pos h))

theorem streamFields_of_good (h2 : low8 (r.p 2) ≤ 7 ∧ high8 (r.p 2) ∈ burstCodes)
    (h3 : 16 ≤ (r.p 3).toNat ∧ (r.p 3).toNat ≤ 32768) (h4 : low8 (r.p 4) ≤ 250) :
    streamFields r = .ok
      { base := address ((r.p 1).toNat + 65536 * low8 (r.p 2)), length := (r.p 3).toNat, burstCode := high8 (r.p 2)
        holdLimit := low8 (r.p 4), resume := if bit (r.p 0) 8 then .cleared else .auto, starvation := high8 (r.p 4)
        runFrames := (r.p 5).toNat
        enables := { lifecycle := bit (r.p 0) 9, fault := bit (r.p 0) 10, signal := bit (r.p 0) 11, onset := bit (r.p 0) 12
                     segment := bit (r.p 0) 13 } } :=
  (if_neg (by simpa using h2)).trans ((if_neg (by omega)).trans (if_neg (Nat.not_lt.2 h4)))

/-! DEFINE DETECTOR (R147). -/

theorem detectorFields_of_blockSize (h : ¬ (3 ≤ field (r.p 1) 8 4 ∧ field (r.p 1) 8 4 ≤ 8)) : detectorFields r = .error 1 :=
  if_pos (by omega)

theorem detectorFields_of_onThreshold (h1 : 3 ≤ field (r.p 1) 8 4 ∧ field (r.p 1) 8 4 ≤ 8)
    (h : ¬ (r.p 2).toNat ≤ 32767) : detectorFields r = .error 2 :=
  (if_neg (by omega)).trans (if_pos (Nat.not_le.1 h))

theorem detectorFields_of_offThreshold (h1 : 3 ≤ field (r.p 1) 8 4 ∧ field (r.p 1) 8 4 ≤ 8) (h2 : (r.p 2).toNat ≤ 32767)
    (h : ¬ ((r.p 3).toNat ≤ 32767 ∧ (r.p 3).toNat ≤ (r.p 2).toNat)) : detectorFields r = .error 3 :=
  (if_neg (by omega)).trans ((if_neg (by omega)).trans (if_pos (by omega)))

theorem detectorFields_of_times (h1 : 3 ≤ field (r.p 1) 8 4 ∧ field (r.p 1) 8 4 ≤ 8) (h2 : (r.p 2).toNat ≤ 32767)
    (h3 : (r.p 3).toNat ≤ 32767 ∧ (r.p 3).toNat ≤ (r.p 2).toNat) (h : ¬ (1 ≤ low8 (r.p 4) ∧ 1 ≤ high8 (r.p 4))) :
    detectorFields r = .error 4 :=
  (if_neg (by omega)).trans ((if_neg (by omega)).trans ((if_neg (by omega)).trans (if_pos (by omega))))

theorem detectorFields_of_good (h1 : 3 ≤ field (r.p 1) 8 4 ∧ field (r.p 1) 8 4 ≤ 8) (h2 : (r.p 2).toNat ≤ 32767)
    (h3 : (r.p 3).toNat ≤ 32767 ∧ (r.p 3).toNat ≤ (r.p 2).toNat) (h4 : 1 ≤ low8 (r.p 4) ∧ 1 ≤ high8 (r.p 4)) :
    detectorFields r = .ok
      { blockFrames := 2 ^ field (r.p 1) 8 4, mask := lowByte (r.p 1), onThreshold := (r.p 2).toNat
        offThreshold := (r.p 3).toNat, onTime := low8 (r.p 4), offTime := high8 (r.p 4), gating := bit (r.p 0) 8 } :=
  (if_neg (by omega)).trans ((if_neg (by omega)).trans ((if_neg (by omega)).trans (if_neg (by omega))))

/-! DEFINE WATCH (R148). -/

theorem matchModeOf_of_lt {m : Nat} (h : m < 3) :
    matchModeOf m = some (if m = 0 then .any else if m = 1 then .all else .none) :=
  match m, h with
  | 0, _ | 1, _ | 2, _ => rfl

theorem watchFields_of_mode (h : field (r.p 0) 8 2 = 3) : watchFields r = .error 0 := by
  simp [watchFields, h, matchModeOf]

theorem watchFields_of_top (hm : field (r.p 0) 8 2 < 3) (h : 7 < low8 (r.p 2)) : watchFields r = .error 2 := by
  simp only [watchFields, matchModeOf_of_lt hm]
  exact if_pos h

theorem watchFields_of_good (hm : field (r.p 0) 8 2 < 3) (h : low8 (r.p 2) ≤ 7) :
    watchFields r = .ok
      { addr := address ((r.p 1).toNat + 65536 * low8 (r.p 2)), mask := r.p 3
        mode := if field (r.p 0) 8 2 = 0 then .any else if field (r.p 0) 8 2 = 1 then .all else .none
        trigger := if bit (r.p 0) 10 then .enter else .each, action := if bit (r.p 0) 11 then .block else .note } := by
  simp only [watchFields, matchModeOf_of_lt hm]
  exact if_neg (Nat.not_lt.2 h)

end Fields

end Sys2Proof.Machine

namespace Sys2Proof.Proofs

open Sys2Proof Sys2Proof.Machine Sys2Proof.Claims

/-- Settles O43: the answers every DEFINE gives, at the checks of the port's and of the stream's fields. -/
theorem definePortAndStreamStageTheirFields : Obligations.DefinePortAndStreamStageTheirFields := by
  refine ⟨numberChecked_of_withObject rfl rfl, numberChecked_of_withStream rfl rfl, fun s r p hx hp => ?_,
    fun s r n hx hn => ?_⟩
  · obtain ⟨habsent, hpresent⟩ := define_answers hx rfl (definePort_eq_defineObject hp s)
    refine ⟨habsent, fun h => ?_⟩
    obtain ⟨hinvalid, hstaged⟩ := hpresent h
    exact ⟨fun hC => hinvalid 1 (portFields_of_channels hC),
      fun hC hC' hL => hinvalid 2 (portFields_of_frameBits hC hC' hL),
      fun hC hC' hL hL' hD => hinvalid 3 (portFields_of_divider hC hC' hL hL' hD),
      fun hC hC' hL hL' hD hD' => hstaged _ (portFields_of_good hC hC' hL hL' hD hD')⟩
  · obtain ⟨habsent, hpresent⟩ := define_answers hx rfl (defineStream_eq_defineObject hn s)
    refine ⟨habsent, fun h => ?_⟩
    obtain ⟨hinvalid, hstaged⟩ := hpresent h
    exact ⟨fun h2 => hinvalid 2 (streamFields_of_topOrBurst h2),
      fun h2 h3 => hinvalid 3 (streamFields_of_length h2 h3),
      fun h2 h3 h4 => hinvalid 4 (streamFields_of_hold h2 h3 h4),
      fun h2 h3 h4 => hstaged _ (streamFields_of_good h2 h3 h4)⟩

/-- Settles O44: the answers every DEFINE gives, at the checks of the detector's and of the watch's fields. -/
theorem defineDetectorAndWatchStageTheirFields : Obligations.DefineDetectorAndWatchStageTheirFields := by
  refine ⟨numberChecked_of_withObject rfl rfl, numberChecked_of_withObject rfl rfl, fun s r p hx hp => ?_,
    fun s r w hx hw => ?_⟩
  · obtain ⟨habsent, hpresent⟩ := define_answers hx rfl (defineDetector_eq_defineObject hp s)
    refine ⟨habsent, fun h => ?_⟩
    obtain ⟨hinvalid, hstaged⟩ := hpresent h
    exact ⟨fun h1 => hinvalid 1 (detectorFields_of_blockSize h1),
      fun h1 h2 => hinvalid 2 (detectorFields_of_onThreshold h1 h2),
      fun h1 h2 h3 => hinvalid 3 (detectorFields_of_offThreshold h1 h2 h3),
      fun h1 h2 h3 h4 => hinvalid 4 (detectorFields_of_times h1 h2 h3 h4),
      fun h1 h2 h3 h4 => hstaged _ (detectorFields_of_good h1 h2 h3 h4)⟩
  · obtain ⟨habsent, hpresent⟩ := define_answers hx rfl (defineWatch_eq_defineObject hw s)
    refine ⟨habsent, fun h => ?_⟩
    obtain ⟨hinvalid, hstaged⟩ := hpresent h
    exact ⟨fun hm => hinvalid 0 (watchFields_of_mode hm), fun hm htop => hinvalid 2 (watchFields_of_top hm htop),
      fun hm htop => hstaged _ (watchFields_of_good hm htop)⟩

end Sys2Proof.Proofs

/-! PROOF. SET LEVEL, CLEAR FAULT and QUERY STREAM (R63, R75, R79, R156 to R158), and the part commands SET TIME, SET LINE, NOP
and UNKNOWN (R161 to R164, R174, R178). -/

namespace Sys2Proof.Machine

open Sys2Proof Sys2Proof.Claims

/-! ### SET LEVEL and CLEAR FAULT -/

section StreamCommands

variable {s : State} {r : CommandRecord} {n : Fin 8} (hn : (lowByte (r.p 0)).toNat = n.val)

include hn

theorem setLevelCommand_of_receive (hrx : isTx n = false) : setLevelCommand r s = failWith s .invalid 0 := by
  rw [setLevelCommand, withStream_of_number hn]
  exact if_neg (Bool.eq_false_iff.1 hrx)

theorem setLevelCommand_of_transmit (htx : isTx n = true) :
    setLevelCommand r s = withPresent n s fun e =>
      if 3 < low8 (r.p 1) then failWith s .invalid 1
      else doneWith (s.setStream n { e with attenuation := low8 (r.p 1), mute := bit (r.p 1) 8 }) := by
  rw [setLevelCommand, withStream_of_number hn]
  exact if_pos htx

theorem clearFaultCommand_of_absent (habsent : (s.stream n).state = .absent) :
    clearFaultCommand r s = failWith s .notready n.val := by
  rw [clearFaultCommand, withStream_of_number hn, withPresent_of_absent habsent]

theorem clearFaultCommand_of_present (hpresent : (s.stream n).state ≠ .absent) :
    clearFaultCommand r s = doneWith (s.setStream n ((s.stream n).clearFlags (r.p 1))) := by
  rw [clearFaultCommand, withStream_of_number hn, withPresent_of_present hpresent]

end StreamCommands

/-- A flag stays unless the word names it (R75). -/
theorem clearFlags_flags_getElem (e : StreamEntry) (w : Word) (i : Nat) (h : i < 6) :
    (e.clearFlags w).flags[i] = (e.flags[i] && !w.getLsbD (i + 1)) :=
  Vector.getElem_mapIdx ..

/-! ### The words of QUERY STREAM -/

/-- The bit of a fault in the flag word of QUERY STREAM: its number (R73, R191). -/
def StreamFault.flagBit (f : StreamFault) : Fin 8 := ⟨f.index.val + 1, by omega⟩

theorem allFaults_getElem_index (f : StreamFault) : allFaults[f.index.val]? = some f := by
  cases f <;> rfl

theorem mem_allFaults (f : StreamFault) : f ∈ allFaults := List.mem_of_getElem? (allFaults_getElem_index f)

theorem flagBit_inj {f g : StreamFault} : f.flagBit = g.flagBit ↔ f = g := by
  refine ⟨fun h => ?_, congrArg _⟩
  have hindex : f.index.val = g.index.val := Nat.succ.inj (congrArg Fin.val h)
  have hf := allFaults_getElem_index f
  rw [hindex, allFaults_getElem_index g] at hf
  exact (Option.some.inj hf).symm

theorem applies_eq_canHave (f : StreamFault) (n : Fin 8) : f.applies n = canHave n f := by
  cases f <;> rfl

/-- The faults whose bits the flag word has, in number order. -/
def StreamEntry.standing (e : StreamEntry) (n : Fin 8) : List StreamFault := allFaults.filter fun f => f.applies n && e.flag f

theorem mem_standing (e : StreamEntry) (n : Fin 8) (f : StreamFault) :
    f ∈ e.standing n ↔ (canHave n f && e.flag f) = true := by
  simp only [StreamEntry.standing, List.mem_filter, mem_allFaults, true_and, applies_eq_canHave]

/-- The flag word is a word of bits below 8, as that of a TRIGGER event is. -/
theorem flagWord_eq (e : StreamEntry) (n : Fin 8) :
    e.flagWord n = word (streamBits ((e.standing n).map StreamFault.flagBit)) := by
  rw [streamBits, List.foldl_map]
  rfl

theorem standing_ordered (e : StreamEntry) (n : Fin 8) : ((e.standing n).map StreamFault.flagBit).Pairwise (· < ·) := by
  have hall : (allFaults.map StreamFault.flagBit).Pairwise (· < ·) := by decide
  exact hall.sublist (List.filter_sublist.map _)

theorem getLsbD_flagWord (e : StreamEntry) (n b : Fin 8) :
    (e.flagWord n).getLsbD b.val = true ↔ ∃ f, (canHave n f && e.flag f) = true ∧ f.flagBit = b := by
  rw [flagWord_eq, getLsbD_streamBits (standing_ordered e n)]
  simp only [List.mem_map, mem_standing]

theorem getLsbD_flagWord_fault (e : StreamEntry) (n : Fin 8) (f : StreamFault) :
    (e.flagWord n).getLsbD (f.index.val + 1) = (canHave n f && e.flag f) := by
  rw [Bool.eq_iff_iff, show f.index.val + 1 = f.flagBit.val from rfl, getLsbD_flagWord]
  simp only [flagBit_inj, exists_eq_right]

/-- No fault has the number 0. -/
theorem getLsbD_flagWord_zero (e : StreamEntry) (n : Fin 8) : (e.flagWord n).getLsbD 0 = false := by
  rw [Bool.eq_false_iff]
  intro h
  obtain ⟨f, -, hf⟩ := (getLsbD_flagWord e n 0).1 h
  exact absurd (congrArg Fin.val hf) (Nat.succ_ne_zero _)

/-- No fault has a number above 6. -/
theorem flagWord_lt (e : StreamEntry) (n : Fin 8) : (e.flagWord n).toNat < 128 := by
  rw [flagWord_eq, word, BitVec.toNat_ofNat]
  refine Nat.lt_of_le_of_lt (Nat.mod_le ..) (Nat.lt_pow_two_of_testBit (n := 7) _ fun i hi => ?_)
  rw [Bool.eq_false_iff, ne_eq, testBit_streamBits (standing_ordered e n)]
  rintro ⟨b, hb, rfl⟩
  obtain ⟨f, -, rfl⟩ := List.mem_map.1 hb
  have hf : f.flagBit.val = f.index.val + 1 := rfl
  omega

section FramesRemaining

variable {e : StreamEntry} {n : Fin 8} {C : Nat}

theorem framesRemaining_of_idle (h : e.state = .idle) : e.framesRemaining n C = 0 := by
  rw [StreamEntry.framesRemaining, h]

theorem framesRemaining_of_unlimited (h : e.limit = none) : e.framesRemaining n C = 0 := by
  cases hstate : e.state <;> rw [StreamEntry.framesRemaining, hstate, h]

theorem framesRemaining_of_limit {l : Nat} (habsent : e.state ≠ .absent) (hidle : e.state ≠ .idle) (h : e.limit = some l) :
    e.framesRemaining n C = min 65535 ((l - e.wordsOut n) / C) := by
  cases hstate : e.state with
  | absent => exact absurd hstate habsent
  | idle => exact absurd hstate hidle
  | armed | pending | running | stopping => rw [StreamEntry.framesRemaining, hstate, h]

end FramesRemaining

theorem streamResponse_of_absent {s : State} {n : Fin 8} (h : (s.stream n).state = .absent) :
    s.streamResponse n = #v[word n.val, 0, 0, 0, 0, 0] := by
  simp [State.streamResponse, h, StreamState.number]

theorem streamResponse_of_present {s : State} {n : Fin 8} (h : (s.stream n).state ≠ .absent) :
    s.streamResponse n =
      let e := s.stream n
      let v := s.ring (.stream n)
      #v[word (n.val + 256 * e.state.number), e.flagWord n, word v.producer, word v.consumer, word v.fill,
        word (e.framesRemaining n (s.channels (portOf n)))] := by
  simp only [State.streamResponse]
  split
  · contradiction
  all_goals rfl

theorem queryStream_of_number {s : State} {r : CommandRecord} {n : Fin 8} (hn : (lowByte (r.p 0)).toNat = n.val) :
    queryStream r s = (s, CommandResult.okWith (s.streamResponse n)) := by
  rw [queryStream, withStream_of_number hn]

/-! ### SET TIME and SET LINE -/

theorem setTime_of_range {r : CommandRecord} (h : 1 < (r.p 2).toNat) (s : State) : setTime r s = failWith s .invalid 2 :=
  if_pos h

theorem setTime_of_source {r : CommandRecord} {src : TagSource} (h : (r.p 2).toNat = src.number) (s : State) :
    setTime r s = doneWith { s with time := { counter := r.p 1 ++ r.p 0, source := src } } := by
  cases src <;> simp [setTime, h, TagSource.number]

theorem setLine_of_range {r : CommandRecord} (h : 1 < (r.p 0).toNat) (s : State) : setLine r s = failWith s .invalid 0 :=
  if_pos h

theorem setLine_of_level {r : CommandRecord} (h : (r.p 0).toNat = 0) (s : State) :
    setLine r s = doneWith { s with events := s.events.setLine .level } := by
  simp [setLine, h]

theorem setLine_of_pulse {r : CommandRecord} (h : (r.p 0).toNat = 1) (s : State) :
    setLine r s = doneWith { s with events := s.events.setLine .pulse } := by
  simp [setLine, h]

theorem EventUnit.setLine_level (u : EventUnit) : u.setLine .level = { u with line := .level, pulse := none } := by
  cases h : u.line <;> simp [EventUnit.setLine, h]

/-- From LEVEL no pulse is under way. -/
theorem EventUnit.setLine_pulse_of_level {u : EventUnit} (h : u.line = .level) :
    u.setLine .pulse = { u with line := .pulse, pulse := none } := by
  simp [EventUnit.setLine, h]

/-- From PULSE a pulse under way goes on (R174). -/
theorem EventUnit.setLine_pulse_of_pulse {u : EventUnit} (h : u.line = .pulse) : u.setLine .pulse = u := by
  simp [EventUnit.setLine, h]

end Sys2Proof.Machine

namespace Sys2Proof.Proofs

open Sys2Proof Sys2Proof.Machine Sys2Proof.Claims

/-- Settles O52: SET LEVEL by the direction of the stream, then by its state; CLEAR FAULT flag by flag. -/
theorem levelAndFlagsAreSet : Obligations.LevelAndFlagsAreSet := by
  refine ⟨numberChecked_of_withStream rfl rfl, numberChecked_of_withStream rfl rfl,
    fun s r n hx hn habsent => execute_answers hx rfl (clearFaultCommand_of_absent hn habsent),
    fun s r n hx hn => ⟨fun hrx => execute_answers hx rfl (setLevelCommand_of_receive hn hrx), ?_, ?_, ?_⟩,
    fun s r n hx hn hpresent => ⟨_, clearFlags_flags_getElem (s.stream n) (r.p 1),
      execute_answers hx rfl (clearFaultCommand_of_present hn hpresent)⟩⟩
  · intro htx habsent
    refine execute_answers hx rfl ?_
    rw [setLevelCommand_of_transmit hn htx, withPresent_of_absent habsent]
    rfl
  · intro htx hpresent ha
    refine execute_answers hx rfl ?_
    rw [setLevelCommand_of_transmit hn htx, withPresent_of_present hpresent]
    exact if_pos ha
  · intro htx hpresent ha
    refine execute_answers hx rfl ?_
    rw [setLevelCommand_of_transmit hn htx, withPresent_of_present hpresent]
    exact if_neg (Nat.not_lt.2 ha)

/-- Settles O53: the response is the model's, read off word by word. -/
theorem queryStreamReports : Obligations.QueryStreamReports := by
  refine ⟨numberChecked_of_withStream rfl rfl, fun s r n hx hn => ?_⟩
  refine ⟨s.streamResponse n, execute_answers hx rfl (queryStream_of_number hn), streamResponse_of_absent, fun hpresent => ?_⟩
  rw [streamResponse_of_present hpresent]
  refine ⟨rfl, getLsbD_flagWord_fault _ n, getLsbD_flagWord_zero _ n, flagWord_lt _ n, rfl, rfl, rfl, ?_⟩
  change word ((s.stream n).framesRemaining n (s.channels (portOf n))) = _
  split
  · next hidle => rw [framesRemaining_of_idle hidle]; rfl
  · next hidle =>
    split
    · next hlimit => rw [framesRemaining_of_unlimited hlimit]; rfl
    · next l hlimit => rw [framesRemaining_of_limit hpresent hidle hlimit]; rfl

/-- Settles O55: each part command by the value of its field; of SET LINE to PULSE, by the mode before it. -/
theorem partCommandsSetTimeAndLine : Obligations.PartCommandsSetTimeAndLine := by
  refine ⟨fun s r hx => ⟨fun h => execute_answers hx rfl (setTime_of_range h s),
      fun src h => execute_answers hx rfl (setTime_of_source h s)⟩,
    fun s r hx => ⟨fun h => execute_answers hx rfl (setLine_of_range h s), fun h => ?_, fun h => ?_⟩,
    fun s r hx => execute_answers hx rfl rfl,
    fun s r hlive hstate hcode => ?_⟩
  · refine execute_answers hx rfl ?_
    rw [setLine_of_level h, EventUnit.setLine_level]
    rfl
  · refine execute_answers hx rfl ?_
    rw [setLine_of_pulse h]
    split
    · next hline => rw [EventUnit.setLine_pulse_of_level hline]; rfl
    · next hline => rw [EventUnit.setLine_pulse_of_pulse hline, ← hline]; rfl
  · have hc := (commandOfCode_eq_unknownCommand r.code).2 hcode
    exact execute_answers (f := fun _ s => failWith s .unknown 0) ⟨hlive, hstate, rfl⟩ hc rfl

end Sys2Proof.Proofs

/-! PROOF. The rise of RST# (R181, R183): the model's exclusive or over the straps is the parity of their ones, and with it the two
states the rise can lead to; the blocks then stand as after reset. -/

namespace Sys2Proof.Machine

open Sys2Proof Sys2Proof.Claims

/-! ### The parity of the straps -/

/-- An exclusive or over bits says whether an odd number of them is one. -/
theorem foldr_xor_eq_odd_ones (bs : List Bool) : bs.foldr xor false = decide ((bs.filter id).length % 2 = 1) := by
  induction bs with
  | nil => rfl
  | cons b bs ih =>
    cases b with
    | false => simp [ih]
    | true =>
      rw [List.foldr_cons, ih, Bool.true_xor, ← decide_not, List.filter_cons_of_pos rfl, List.length_cons, decide_eq_decide]
      omega

theorem strapsOdd_eq (base : BitVec 4) (bpar : Bool) : strapsOdd base bpar = decide (ones base bpar % 2 = 1) := by
  rw [ones, ← foldr_xor_eq_odd_ones]
  simp [strapsOdd]

/-! ### The two outcomes of a rise out of RESET -/

section Rise

variable {base : BitVec 4} {bpar : Bool} {s : State}

theorem rstRise_of_odd (hpart : s.start.part = .reset) (hodd : ones base bpar % 2 = 1) :
    exec (.rstRise base bpar) s = .next (s.cleared
      { part := .starting, base := base, bpar := bpar, cause := .pin, identity := { phase := .firstDue, owed := false } }) := by
  simp [exec, execRstRise, hpart, strapsOdd_eq, hodd]

theorem rstRise_of_even (hpart : s.start.part = .reset) (heven : ones base bpar % 2 = 0) :
    exec (.rstRise base bpar) s = .next (s.cleared
      { part := .safe, base := base, bpar := bpar, cause := .pin, identity := { phase := .idle, owed := false } }) := by
  simp [exec, execRstRise, hpart, strapsOdd_eq, heven]

end Rise

/-! ### What clearing the part leaves -/

theorem cleared_blocksAsReset (s : State) (start : StartUp) : BlocksAsReset (s.cleared start) :=
  ⟨rfl, rfl, rfl, rfl, rfl, rfl, rfl, rfl, rfl, rfl⟩

/-- No access is held or forwarded on the transparent path, so PRDY is high (R1, R19). -/
theorem cleared_prdy (s : State) (start : StartUp) : (s.cleared start).prdy = true := by
  rw [prdy_iff]
  simp only [State.cleared]
  cases s.path.phase <;> simp [PathPhase.onTransparentPath]

/-- The blocks are as after reset and PRDY is high; the RAM, PD, the free index and the queue stay. -/
theorem cleared_frame (s : State) (start : StartUp) :
    let t := s.cleared start
    BlocksAsReset t ∧ t.mem = s.mem ∧ t.path.pd = s.path.pd ∧ t.prdy = true ∧ t.freeCount = s.freeCount ∧
      t.pending = s.pending :=
  ⟨cleared_blocksAsReset s start, rfl, rfl, cleared_prdy s start, rfl, rfl⟩

end Sys2Proof.Machine

namespace Sys2Proof.Proofs

open Sys2Proof Sys2Proof.Machine Sys2Proof.Claims

/-- Settles O7, by the parity of the straps: each outcome clears the part, with the start-up state of STARTING or of SAFE. -/
theorem rstRiseSamplesTheStraps : Obligations.RstRiseSamplesTheStraps := by
  intro base bpar s hpart
  obtain heven | hodd := Nat.mod_two_eq_zero_or_one (ones base bpar)
  · refine ⟨_, rstRise_of_even hpart heven, rfl, rfl, rfl, rfl, ?_, fun _ => ⟨rfl, rfl, rfl⟩, cleared_frame s _⟩
    intro hodd
    omega
  · refine ⟨_, rstRise_of_odd hpart hodd, rfl, rfl, rfl, rfl, fun _ => ⟨rfl, rfl, rfl, rfl⟩, ?_, cleared_frame s _⟩
    intro heven
    omega

end Sys2Proof.Proofs

/-! PROOF. What the work of one sample port can touch: its own port, detector and two streams, the standing of an engine burst, and
the event queue. No definition changes, and a bounded queue stays bounded. Each operation of a run or of a frame is a chain of
four updates and of raised events, so the fact is proved of these and carried along the chain. -/

namespace Sys2Proof.Machine

open Sys2Proof Sys2Proof.Claims

/-- The bounds of the pending queue and of the counts it carries (R167, R168). -/
def EventUnit.Bounded (u : EventUnit) : Prop :=
  u.queue.length ≤ 8 ∧ u.dropped ≤ 65535 ∧ ∀ q ∈ u.queue, q.carried ≤ 65535

theorem satInc_le (n : Nat) : satInc n ≤ 65535 := by
  simp only [satInc]; split <;> omega

/-- An event that is raised leaves the queue bounded (R167, R168). -/
theorem EventUnit.Bounded.raise {u : EventUnit} (h : u.Bounded) (e : Event) : (u.raise e).Bounded := by
  obtain ⟨hlen, hdropped, hcarried⟩ := h
  obtain ⟨hroom, hq, hd⟩ | ⟨-, hq, hd⟩ := eventUnit_raise_cases u e
  · refine ⟨by rw [hq, List.length_append]; exact hroom, by rw [hd]; omega, fun q hmem => ?_⟩
    rw [hq, List.mem_append] at hmem
    obtain hmem | hmem := hmem
    · exact hcarried q hmem
    · rw [List.mem_singleton.1 hmem]
      exact hdropped
  · exact ⟨by rw [hq]; exact hlen, by rw [hd]; exact satInc_le _, by rw [hq]; exact hcarried⟩

/-- The memory port after the runs of these streams have ended. -/
def PortUse.afterRuns (u : PortUse) (ns : List (Fin 8)) : PortUse := ns.foldl PortUse.afterRun u

/-- What the work of port p leaves, and how far it can change the rest. -/
structure PortWork (p : Fin 4) (s t : State) : Prop where
  frame : PortStepFrame s t
  others : OtherPortsKept s t p
  streamDef : ∀ n, (t.stream n).active = (s.stream n).active
  portDef : ∀ q, (t.port q).active = (s.port q).active
  detectorDef : ∀ q, (t.detector q).active = (s.detector q).active
  use : ∃ ns, t.arb.use = s.arb.use.afterRuns ns
  events : s.events.Bounded → t.events.Bounded

theorem portStepFrame_refl (s : State) : PortStepFrame s s := ⟨rfl, rfl, rfl, rfl, rfl, rfl, rfl, rfl, rfl, rfl, rfl⟩

theorem portStepFrame_trans {s t u : State} (h : PortStepFrame s t) (h' : PortStepFrame t u) : PortStepFrame s u := by
  obtain ⟨a1, a2, a3, a4, a5, a6, a7, a8, a9, a10, a11⟩ := h
  obtain ⟨b1, b2, b3, b4, b5, b6, b7, b8, b9, b10, b11⟩ := h'
  exact ⟨b1.trans a1, b2.trans a2, b3.trans a3, b4.trans a4, b5.trans a5, b6.trans a6, b7.trans a7, b8.trans a8, b9.trans a9,
    b10.trans a10, b11.trans a11⟩

theorem otherPortsKept_refl (s : State) (p : Fin 4) : OtherPortsKept s s p := fun _ _ => ⟨rfl, rfl, rfl, rfl⟩

theorem otherPortsKept_trans {s t u : State} {p : Fin 4} (h : OtherPortsKept s t p) (h' : OtherPortsKept t u p) :
    OtherPortsKept s u p := fun q hq => by
  obtain ⟨a1, a2, a3, a4⟩ := h q hq
  obtain ⟨b1, b2, b3, b4⟩ := h' q hq
  exact ⟨b1.trans a1, b2.trans a2, b3.trans a3, b4.trans a4⟩

section Chain

variable {p : Fin 4} {s t u : State}

theorem PortWork.refl (p : Fin 4) (s : State) : PortWork p s s :=
  ⟨portStepFrame_refl s, otherPortsKept_refl s p, fun _ => rfl, fun _ => rfl, fun _ => rfl, ⟨[], rfl⟩, id⟩

theorem PortWork.trans (h : PortWork p s t) (h' : PortWork p t u) : PortWork p s u := by
  obtain ⟨ns, hns⟩ := h.use
  obtain ⟨ms, hms⟩ := h'.use
  refine ⟨portStepFrame_trans h.frame h'.frame, otherPortsKept_trans h.others h'.others, fun n => (h'.streamDef n).trans (h.streamDef n),
    fun q => (h'.portDef q).trans (h.portDef q), fun q => (h'.detectorDef q).trans (h.detectorDef q), ⟨ns ++ ms, ?_⟩,
    fun hb => h'.events (h.events hb)⟩
  rw [hms, hns, PortUse.afterRuns, PortUse.afterRuns, PortUse.afterRuns, List.foldl_append]

/-- A chain read from its last link back. -/
theorem PortWork.after (h' : PortWork p t u) (h : PortWork p s t) : PortWork p s u := h.trans h'

theorem PortWork.ite {c : Prop} [Decidable c] (h : PortWork p s t) (h' : PortWork p s u) :
    PortWork p s (if c then t else u) := by
  split
  · exact h
  · exact h'

/-! ### The updates a chain is made of -/

theorem txOf_ne_of_portOf_ne {n : Fin 8} {q : Fin 4} (h : q ≠ portOf n) : txOf q ≠ n := fun hn => h (by rw [← hn, portOf_txOf])

theorem rxOf_ne_of_portOf_ne {n : Fin 8} {q : Fin 4} (h : q ≠ portOf n) : rxOf q ≠ n := fun hn => h (by rw [← hn, portOf_rxOf])

theorem setStream_active {s : State} {n : Fin 8} {e : StreamEntry} (ha : e.active = (s.stream n).active) (m : Fin 8) :
    ((s.setStream n e).stream m).active = (s.stream m).active := by
  by_cases hm : m = n
  · rw [hm, setStream_stream_same, ha]
  · rw [setStream_stream_other s n m e hm]

theorem setPort_active {s : State} {p : Fin 4} {e : PortEntry} (ha : e.active = (s.port p).active) (q : Fin 4) :
    ((s.setPort p e).port q).active = (s.port q).active := by
  by_cases hq : q = p
  · rw [hq, setPort_port_same, ha]
  · rw [setPort_port_other s p q e hq]

theorem setDetector_active {s : State} {p : Fin 4} {e : DetectorEntry} (ha : e.active = (s.detector p).active) (q : Fin 4) :
    ((s.setDetector p e).detector q).active = (s.detector q).active := by
  by_cases hq : q = p
  · rw [hq, setDetector_detector_same, ha]
  · rw [setDetector_detector_other s p q e hq]

/-- A change of a stream's entry that keeps its definition is work of the stream's port. -/
theorem portWork_setStream {n : Fin 8} {e : StreamEntry} (hn : portOf n = p) (ha : e.active = (s.stream n).active) :
    PortWork p s (s.setStream n e) := by
  refine ⟨portStepFrame_refl s, fun q hq => ?_, setStream_active ha, fun _ => rfl, fun _ => rfl, ⟨[], rfl⟩, id⟩
  rw [← hn] at hq
  exact ⟨rfl, rfl, setStream_stream_other _ _ _ _ (txOf_ne_of_portOf_ne hq),
    setStream_stream_other _ _ _ _ (rxOf_ne_of_portOf_ne hq)⟩

theorem portWork_setPort {e : PortEntry} (ha : e.active = (s.port p).active) : PortWork p s (s.setPort p e) :=
  ⟨portStepFrame_refl s, fun _ hq => ⟨setPort_port_other _ _ _ _ hq, rfl, rfl, rfl⟩, fun _ => rfl, setPort_active ha, fun _ => rfl,
    ⟨[], rfl⟩, id⟩

theorem portWork_setDetector {e : DetectorEntry} (ha : e.active = (s.detector p).active) :
    PortWork p s (s.setDetector p e) :=
  ⟨portStepFrame_refl s, fun _ hq => ⟨rfl, setDetector_detector_other _ _ _ _ hq, rfl, rfl⟩, fun _ => rfl, fun _ => rfl,
    setDetector_active ha, ⟨[], rfl⟩, id⟩

theorem portWork_raise (p : Fin 4) (s : State) (e : Event) : PortWork p s (s.raise e) :=
  ⟨portStepFrame_refl s, otherPortsKept_refl s p, fun _ => rfl, fun _ => rfl, fun _ => rfl, ⟨[], rfl⟩, fun h => h.raise e⟩

theorem portWork_afterRun (p : Fin 4) (s : State) (n : Fin 8) : PortWork p s (s.setUse (s.arb.use.afterRun n)) :=
  ⟨portStepFrame_refl s, otherPortsKept_refl s p, fun _ => rfl, fun _ => rfl, fun _ => rfl, ⟨[n], rfl⟩, id⟩

theorem portWork_raiseStreamAt (p : Fin 4) (s : State) (n : Fin 8) (enabled : Enables → Bool) (tag : Tag) (kind : EventKind)
    (a b c : Word) : PortWork p s (s.raiseStreamAt n enabled tag kind a b c) := by
  obtain h | ⟨e, h⟩ := raiseStreamAt_cases s n enabled tag kind a b c <;> rw [h]
  · exact .refl p s
  · exact portWork_raise p s e

theorem portWork_raiseStream (p : Fin 4) (s : State) (n : Fin 8) (enabled : Enables → Bool) (kind : EventKind)
    (a b c : Word) : PortWork p s (s.raiseStream n enabled kind a b c) :=
  portWork_raiseStreamAt ..

/-! ### Runs -/

theorem portWork_occur {n : Fin 8} (hn : portOf n = p) (s : State) (f : StreamFault) (index : Nat) :
    PortWork p s (s.occur n f index) := by
  have hset : PortWork p s (s.setStream n ((s.stream n).occurred f)) := portWork_setStream hn rfl
  exact .ite (.refl p s) (.ite hset (hset.trans (portWork_raiseStream ..)))

theorem portWork_placeMark (p : Fin 4) (kind : MarkKind) (s : State) : PortWork p s (s.placeMark p kind) := portWork_setPort rfl

theorem portWork_endMark (p : Fin 4) (s : State) : PortWork p s (s.endMark p) :=
  (portWork_placeMark p .segEnd s).trans (portWork_setStream (portOf_rxOf p) rfl)

theorem portWork_closeGate (p : Fin 4) (s : State) : PortWork p s (s.closeGate p) := .ite (portWork_endMark p s) (.refl p s)

theorem portWork_closeSegment (p : Fin 4) (s : State) (tag : Tag) : PortWork p s (s.closeSegment p tag) :=
  (portWork_raiseStreamAt ..).trans (portWork_setStream (portOf_rxOf p) rfl)

theorem portWork_openSegment (p : Fin 4) (s : State) (tag : Tag) : PortWork p s (s.openSegment p tag) :=
  (portWork_raiseStreamAt ..).trans (portWork_setStream (portOf_rxOf p) rfl)

theorem portWork_processMark (p : Fin 4) (s : State) (kind : MarkKind) (tag : Tag) : PortWork p s (s.processMark p kind tag) := by
  cases kind with
  | segStart => exact portWork_openSegment p s tag
  | segEnd => exact portWork_closeSegment p s tag

theorem portWork_processHead (p : Fin 4) (f : List RxEntry) (s : State) : PortWork p s (State.processHead p f s) := by
  induction f generalizing s with
  | nil => exact .refl p s
  | cons x f ih =>
    cases x with
    | mark kind tag =>
      have hleft : PortWork p s (s.setPort p { s.port p with rxFifo := f }) := portWork_setPort rfl
      exact (hleft.trans (portWork_processMark ..)).trans (ih _)
    | _ => exact .refl p s

theorem portWork_processMarks (p : Fin 4) (s : State) : PortWork p s (s.processMarks p) := by
  simp only [State.processMarks]
  split
  · exact .ite (.refl p s) (portWork_processHead ..)
  · exact .ite (.refl p s) (portWork_processHead ..)
  · exact .refl p s

theorem portWork_checkLimit {n : Fin 8} (hn : portOf n = p) (s : State) : PortWork p s (s.checkLimit n) := by
  simp only [State.checkLimit]
  split
  · exact .refl p s
  · refine .ite ?_ (.refl p s)
    split
    · exact .after (portWork_raiseStream ..) (portWork_setStream hn rfl)
    · have hset : PortWork p s (s.setStream n { s.stream n with limitReached := true }) := portWork_setStream hn rfl
      exact .ite hset (hset.trans (hn ▸ portWork_closeGate (portOf n) _))

theorem portWork_endRun {n : Fin 8} (hn : portOf n = p) (s : State) (why : EndReason) : PortWork p s (s.endRun n why) :=
  .after (portWork_raiseStream ..) (.after (portWork_setStream hn rfl) (portWork_afterRun p s n))

theorem portWork_throwOutTx (p : Fin 4) (s : State) : PortWork p s (s.throwOutTx p) := by
  have hset : PortWork p s (s.setStream (txOf p)
      { s.stream (txOf p) with discarded := (s.stream (txOf p)).discarded + (s.port p).txFifo.length }) :=
    portWork_setStream (portOf_txOf p) rfl
  exact hset.trans (portWork_setPort rfl)

theorem portWork_throwOutRx (p : Fin 4) (s : State) : PortWork p s (s.throwOutRx p) := by
  have hset : PortWork p s (s.setStream (rxOf p)
      { s.stream (rxOf p) with discarded := (s.stream (rxOf p)).discarded + sampleCount (s.port p).rxFifo }) :=
    portWork_setStream (portOf_rxOf p) rfl
  exact hset.trans (portWork_setPort rfl)

theorem portWork_closeOpenSegment (p : Fin 4) (s : State) : PortWork p s (s.closeOpenSegment p) :=
  .ite (portWork_closeSegment ..) (.refl p s)

theorem rxOf_portOf {n : Fin 8} (h : isTx n = false) : rxOf (portOf n) = n := by
  apply Fin.ext
  simp only [isTx, beq_eq_false_iff_ne] at h
  simp only [rxOf, portOf]
  omega

theorem txOf_portOf {n : Fin 8} (h : isTx n = true) : txOf (portOf n) = n := by
  apply Fin.ext
  simp only [isTx, beq_iff_eq] at h
  simp only [txOf, portOf]
  omega

theorem portWork_cutRun {n : Fin 8} (hn : portOf n = p) (s : State) (why : EndReason) : PortWork p s (s.cutRun n why) := by
  subst hn
  simp only [State.cutRun]
  split
  · exact (portWork_throwOutTx _ s).trans (portWork_endRun rfl _ why)
  · exact .after (portWork_endRun rfl _ why)
      (.after (portWork_setStream rfl rfl) ((portWork_throwOutRx _ s).trans (portWork_closeOpenSegment ..)))

theorem portWork_startRunning {n : Fin 8} (hn : portOf n = p) (s : State) : PortWork p s (s.startRunning n) :=
  .after (portWork_raiseStream ..) (portWork_setStream hn rfl)

/-! ### Frames -/

theorem portWork_frameFault (p : Fin 4) (s : State) (index : Nat) : PortWork p s (s.frameFault p index) :=
  (portWork_occur (portOf_txOf p) s .frame index).trans (portWork_occur (portOf_rxOf p) _ .frame index)

theorem portWork_pad (p : Fin 4) (s : State) : PortWork p s (s.pad p) := .ite (portWork_setPort rfl) (.refl p s)

theorem portWork_realign (p : Fin 4) (s : State) : PortWork p s (s.realign p) := by
  simp only [State.realign]
  split
  · have hdrop : ∀ e fifo, e.active = (s.stream (txOf p)).active →
        PortWork p s ((s.setStream (txOf p) e).setPort p { s.port p with txFifo := fifo }) := fun _ _ he =>
      .after (portWork_setPort rfl) (portWork_setStream (portOf_txOf p) he)
    refine .ite (hdrop _ _ rfl) (.after (portWork_setPort ?_) (.after (portWork_setStream (portOf_txOf p) ?_) (hdrop _ _ rfl)))
    all_goals simp
  · exact .refl p s

theorem portWork_endFrame (p : Fin 4) (s : State) (d : PortDef) (position : Nat) : PortWork p s (s.endFrame p d position) :=
  .ite (((portWork_frameFault ..).trans (portWork_pad ..)).trans (portWork_realign ..))
    (.ite (portWork_frameFault ..) (.refl p s))

theorem portWork_beginFrame (p : Fin 4) (s : State) : PortWork p s (s.beginFrame p) := portWork_setPort rfl

theorem portWork_boundaryTx (p : Fin 4) (s : State) : PortWork p s (s.boundaryTx p) := by
  simp only [State.boundaryTx]
  split
  · exact portWork_startRunning (portOf_txOf p) s
  · exact (portWork_throwOutTx p s).trans (portWork_endRun (portOf_txOf p) ..)
  · exact .ite (portWork_endRun (portOf_txOf p) s .complete) (.refl p s)
  all_goals exact .refl p s

theorem portWork_boundaryRx (p : Fin 4) (s : State) : PortWork p s (s.boundaryRx p) := by
  simp only [State.boundaryRx]
  split
  · exact portWork_startRunning (portOf_rxOf p) s
  all_goals exact .refl p s

theorem portWork_admitFrame (p : Fin 4) (s : State) : PortWork p s (s.admitFrame p) := by
  have hset : PortWork p s (s.setPort p
      { s.port p with rxFifo := (s.port p).rxFifo ++ reservedFrom 0 (s.channels p), admitted := true }) := portWork_setPort rfl
  exact .after (portWork_checkLimit (portOf_rxOf p) _) (.after (portWork_setStream (portOf_rxOf p) rfl) hset)

theorem portWork_admission (p : Fin 4) (s : State) : PortWork p s (s.admission p) := by
  have hover := portWork_occur (portOf_rxOf p) s .overrun 0
  exact .ite (.ite (.refl p s) (.ite hover (.ite hover (portWork_admitFrame p s)))) (.refl p s)

theorem portWork_raiseSignal (p : Fin 4) (s : State) (old new : DetectorState) (peak : Nat) :
    PortWork p s (s.raiseSignal p old new peak) :=
  .ite (portWork_raiseStream ..) (.ite (portWork_raiseStream ..) (.ite (portWork_raiseStream ..) (.refl p s)))

theorem portWork_askStart (p : Fin 4) (s : State) : PortWork p s (s.askStart p) :=
  .ite ((portWork_placeMark p .segStart s).trans (portWork_setStream (portOf_rxOf p) rfl)) (.refl p s)

theorem portWork_moveGate (p : Fin 4) (s : State) (old new : DetectorState) : PortWork p s (s.moveGate p old new) :=
  .ite (.ite (portWork_askStart p s) (.ite (portWork_closeGate p s) (.refl p s))) (.refl p s)

theorem portWork_evaluateBlock (p : Fin 4) (s : State) (d : DetectorDef) : PortWork p s (s.evaluateBlock p d) :=
  .after (portWork_moveGate ..) (.after (portWork_raiseSignal ..) (portWork_setDetector rfl))

theorem portWork_frameEnd (p : Fin 4) (s : State) : PortWork p s (s.frameEnd p) := by
  simp only [State.frameEnd]
  split
  · exact .refl p s
  · exact .ite (portWork_evaluateBlock ..) (portWork_setDetector rfl)

theorem portWork_takeBoundary (p : Fin 4) (s : State) : PortWork p s (s.takeBoundary p) := by
  have hadm := (((portWork_beginFrame p s).trans (portWork_boundaryTx ..)).trans (portWork_boundaryRx ..)).trans
    (portWork_admission ..)
  exact (PortWork.ite (hadm.trans (portWork_frameEnd ..)) hadm).trans (portWork_processMarks ..)

theorem portWork_boundaryAt (p : Fin 4) (s : State) (d : PortDef) (position : Nat) : PortWork p s (s.boundaryAt p d position) := by
  simp only [State.boundaryAt]
  refine .ite ?_ (.refl p s)
  split
  · exact (portWork_endFrame ..).trans (portWork_takeBoundary ..)
  all_goals exact portWork_takeBoundary p s

/-! ### Channel slots -/

theorem portWork_sendWord (p : Fin 4) (s : State) (w : Word) : PortWork p s (s.sendWord p w) := portWork_setPort rfl

theorem portWork_takeWord (p : Fin 4) (s : State) (c : Nat) (w : Word) (rest : List Word) :
    PortWork p s (s.takeWord p c w rest) :=
  .after (portWork_setPort rfl) (portWork_setStream (portOf_txOf p) rfl)

theorem portWork_beginUnderrun (p : Fin 4) (s : State) (c : Nat) : PortWork p s (s.beginUnderrun p c) := by
  have hport : PortWork p s (s.setPort p { s.port p with tx := .waiting, slotWord := (s.stream (txOf p)).replayOf c }) :=
    portWork_setPort rfl
  exact .after (portWork_occur (portOf_txOf p) _ .underrun c)
    (.ite (.after (portWork_setStream (portOf_txOf p) rfl) hport) hport)

theorem portWork_resumeTaking (p : Fin 4) (s : State) (c : Nat) (w : Word) (rest : List Word) :
    PortWork p s (s.resumeTaking p c w rest) :=
  .after (portWork_takeWord ..) (.after (portWork_setPort rfl) (portWork_setStream (portOf_txOf p) rfl))

theorem portWork_transmitSlot (p : Fin 4) (s : State) (c : Nat) : PortWork p s (s.transmitSlot p c) := by
  simp only [State.transmitSlot]
  refine .ite (portWork_sendWord ..) ?_
  split
  · split
    · exact portWork_takeWord ..
    · exact portWork_beginUnderrun ..
  · refine .ite ((portWork_sendWord ..).trans (portWork_occur (portOf_txOf p) _ .underrun c)) ?_
    split
    · exact .ite (portWork_resumeTaking ..) (portWork_sendWord ..)
    · exact portWork_sendWord ..

theorem portWork_enterSlot (p : Fin 4) (s : State) (c pos : Nat) : PortWork p s (s.enterSlot p c pos) := portWork_setPort rfl

/-! ### Engines and stream commands -/

theorem portWork_joinTx (p : Fin 4) (s : State) (w : Word) : PortWork p s (s.joinTx p w) := by
  simp only [State.joinTx]
  split
  iterate 3
    exact .after (portWork_checkLimit (portOf_txOf p) _)
      (.after (portWork_setPort rfl) (portWork_setStream (portOf_txOf p) rfl))
  all_goals exact .refl p s

theorem portWork_countDeposit (p : Fin 4) (s : State) : PortWork p s (s.countDeposit p) := by
  simp only [State.countDeposit]
  split
  iterate 2 exact portWork_setStream (portOf_rxOf p) rfl
  all_goals exact .refl p s

theorem portWork_beginRun {n : Fin 8} (hn : portOf n = p) (s : State) (d : StreamDef) (armed : Bool) :
    PortWork p s (s.beginRun n d armed) := by
  subst hn
  exact .ite (.after (portWork_setPort rfl) (portWork_setStream rfl rfl))
    (.after (portWork_setDetector rfl) (.after (portWork_setPort rfl) (portWork_setStream rfl rfl)))

theorem portWork_stopRx (p : Fin 4) (s : State) : PortWork p s (s.stopRx p) := by
  have hstop : PortWork p s (s.setStream (rxOf p) (s.stream (rxOf p)).toStopping) := portWork_setStream (portOf_rxOf p) rfl
  have hmarks := (hstop.trans (portWork_closeGate ..)).trans (portWork_processMarks ..)
  exact .ite (hmarks.trans (portWork_endRun (portOf_rxOf p) _ .stopped)) hmarks

theorem portWork_stopStream {n : Fin 8} (hn : portOf n = p) (s : State) : PortWork p s (s.stopStream n) := by
  subst hn
  simp only [State.stopStream]
  split
  iterate 3 exact .refl _ s
  · exact portWork_endRun rfl s .stopped
  · exact (PortWork.ite (portWork_throwOutTx _ s) (.refl _ s)).trans (portWork_endRun rfl _ .stopped)
  · exact .ite (portWork_setStream rfl rfl) (portWork_stopRx _ s)

theorem portWork_abortStream {n : Fin 8} (hn : portOf n = p) (s : State) (why : EndReason) :
    PortWork p s (s.abortStream n why) :=
  .ite (portWork_cutRun hn s why) (.refl p s)

end Chain

end Sys2Proof.Machine

/-! PROOF. The shape of every step: each meaning answers a next state, and what the commands of the command ring can do to the part
is said once, as `CommandEffect`. With it: which steps move memory, time and the part state, and that memory stays canonical. -/

namespace Sys2Proof.Machine

open Sys2Proof Sys2Proof.Claims

/-- From every state the meaning answers a next state, in this relation to the state before. -/
def Leads (R : State → State → Prop) (o : State → Host.Outcome State Fault Refusal) : Prop :=
  ∀ s, ∃ t, o s = .next t ∧ R s t

section Leads

variable {R : State → State → Prop}

theorem Leads.of_next {o : State → Host.Outcome State Fault Refusal} (h : Leads R o) {s t : State} (ht : o s = .next t) :
    R s t := by
  obtain ⟨u, hu, hR⟩ := h s
  rw [ht] at hu
  cases hu
  exact hR

theorem leads_whenLive (hrefl : ∀ s, R s s) {f : State → State} (hf : ∀ s, s.live = true → R s (f s)) : Leads R (whenLive f) := by
  intro s
  by_cases hl : s.live = true
  · exact ⟨f s, whenLive_live f s hl, hf s hl⟩
  · exact ⟨s, whenLive_still f s (Bool.eq_false_iff.2 hl), hrefl s⟩

/-! ### The commands of the command ring -/

/-- What the effects of a command can do to the part (R139 to R165), before its result is due. -/
inductive CommandEffect (i : Instr) (s : State) : State → Prop where
  /-- A refusal, a query, NOP, UNKNOWN. -/
  | nothing : CommandEffect i s s
  | stagePort (p : Fin 4) (d : Option PortDef) (hd : ∀ x, d = some x → PortInRange x) : CommandEffect i s (s.stagePort p d)
  | stageStream (n : Fin 8) (d : Option StreamDef) (hd : ∀ x, d = some x → StreamInRange x) :
      CommandEffect i s (s.stageStream n d)
  | stageDetector (p : Fin 4) (d : Option DetectorDef) (hd : ∀ x, d = some x → DetectorInRange x) :
      CommandEffect i s (s.stageDetector p d)
  | stageWatch (w : Fin 4) (d : Option WatchDef) : CommandEffect i s (s.stageWatch w d)
  | apply (o : ObjectSet) (hwalk : s.applyWalk o = none) : CommandEffect i s (s.applyAll o)
  | start (n : Fin 8) (d : StreamDef) (armed : Bool) (hidle : (s.stream n).state = .idle) (hd : (s.stream n).active = some d) :
      CommandEffect i s (s.beginRun n d armed)
  | stop (n : Fin 8) : CommandEffect i s (s.stopStream n)
  | abort (n : Fin 8) : CommandEffect i s (s.abortStream n .aborted)
  /-- EXTEND, SET LEVEL, CLEAR FAULT and the clear-after of QUERY FAULTS leave the run and the gate as they are. -/
  | entry (n : Fin 8) (e : StreamEntry) (hactive : e.active = (s.stream n).active) (hstate : e.state = (s.stream n).state)
      (hgate : e.gateOpen = (s.stream n).gateOpen) : CommandEffect i s (s.setStream n e)
  | time (x : TimeTag) (hi : i = .setTime) : CommandEffect i s { s with time := x }
  | line (m : LineMode) : CommandEffect i s { s with events := s.events.setLine m }
  | resetPart : CommandEffect i s s.softReset

variable {i : Instr} {r : CommandRecord} {s : State}

theorem withStream_effect {f : Fin 8 → State × CommandResult} (hf : ∀ n, CommandEffect i s (f n).1) :
    CommandEffect i s (withStream r s f).1 := by
  simp only [withStream]
  split
  · exact hf _
  · exact .nothing

theorem withObject_effect {f : Fin 4 → State × CommandResult} (hf : ∀ p, CommandEffect i s (f p).1) :
    CommandEffect i s (withObject r s f).1 := by
  simp only [withObject]
  split
  · exact hf _
  · exact .nothing

theorem withPresent_effect {n : Fin 8} {f : StreamEntry → State × CommandResult} (hf : CommandEffect i s (f (s.stream n)).1) :
    CommandEffect i s (withPresent n s f).1 := by
  simp only [withPresent]
  split
  · exact .nothing
  · exact hf

theorem ite_effect {c : Prop} [Decidable c] {x y : State × CommandResult} (hx : CommandEffect i s x.1)
    (hy : CommandEffect i s y.1) : CommandEffect i s (if c then x else y).1 := by
  split
  · exact hx
  · exact hy

/-! The fields that the DEFINE commands take (R145 to R147). -/

theorem field_lt (w : Word) (lo n : Nat) : field w lo n < 2 ^ n := (w.extractLsb' lo n).isLt

theorem low8_lt (w : Word) : low8 w < 256 := (lowByte w).isLt

theorem high8_lt (w : Word) : high8 w < 256 := (highByte w).isLt

theorem portFields_inRange {d : PortDef} (h : portFields r = .ok d) : PortInRange d := by
  simp only [portFields] at h
  split at h
  · cases h
  · split at h
    · cases h
    · split at h
      · cases h
      · cases h
        simp only [PortInRange]
        omega

theorem streamFields_inRange {d : StreamDef} (h : streamFields r = .ok d) : StreamInRange d := by
  have hstarvation := high8_lt (r.p 4)
  have hframes := (r.p 5).isLt
  simp only [streamFields] at h
  split at h
  · cases h
  · next hburst =>
    split at h
    · cases h
    · split at h
      · cases h
      · cases h
        simp only [not_or, Classical.not_not] at hburst
        obtain ⟨-, hburst⟩ := hburst
        simp only [StreamInRange]
        exact ⟨by omega, by omega, hburst, by omega, by omega, by omega⟩

theorem blockFrames_mem : ∀ b, 3 ≤ b → b ≤ 8 → 2 ^ b ∈ [8, 16, 32, 64, 128, 256] := by
  intro b hlo hhi
  have hcases : b = 3 ∨ b = 4 ∨ b = 5 ∨ b = 6 ∨ b = 7 ∨ b = 8 := by omega
  obtain rfl | rfl | rfl | rfl | rfl | rfl := hcases <;> decide

theorem detectorFields_inRange {d : DetectorDef} (h : detectorFields r = .ok d) : DetectorInRange d := by
  have hon := low8_lt (r.p 4)
  have hoff := high8_lt (r.p 4)
  simp only [detectorFields] at h
  split at h
  · cases h
  · split at h
    · cases h
    · split at h
      · cases h
      · split at h
        · cases h
        · cases h
          have hblock := blockFrames_mem (field (r.p 1) 8 4) (by omega) (by omega)
          simp only [DetectorInRange]
          exact ⟨hblock, by omega⟩

/-! Each command. -/

theorem definePort_effect : CommandEffect i s (definePort r s).1 := by
  refine withObject_effect fun p => ite_effect ?_ (.stagePort p none (by simp))
  split
  · next d hd => exact .stagePort p (some d) fun x hx => by cases hx; exact portFields_inRange hd
  · exact .nothing

theorem defineStream_effect : CommandEffect i s (defineStream r s).1 := by
  refine withStream_effect fun n => ite_effect ?_ (.stageStream n none (by simp))
  split
  · next d hd => exact .stageStream n (some d) fun x hx => by cases hx; exact streamFields_inRange hd
  · exact .nothing

theorem defineDetector_effect : CommandEffect i s (defineDetector r s).1 := by
  refine withObject_effect fun p => ite_effect ?_ (.stageDetector p none (by simp))
  split
  · next d hd => exact .stageDetector p (some d) fun x hx => by cases hx; exact detectorFields_inRange hd
  · exact .nothing

theorem defineWatch_effect : CommandEffect i s (defineWatch r s).1 := by
  refine withObject_effect fun w => ite_effect ?_ (.stageWatch w none)
  split
  · next d _ => exact .stageWatch w (some d)
  · exact .nothing

theorem applyCommand_effect : CommandEffect i s (applyCommand r s).1 := by
  simp only [applyCommand]
  split
  · exact .nothing
  · next hwalk => exact .apply _ hwalk

theorem startCommand_effect : CommandEffect i s (startCommand r s).1 := by
  refine withStream_effect fun n => withPresent_effect ?_
  split
  · next hidle hd => exact .start n _ _ hidle hd
  · exact .nothing

theorem stopCommand_effect : CommandEffect i s (stopCommand r s).1 :=
  withStream_effect fun n => withPresent_effect (.stop n)

theorem abortCommand_effect : CommandEffect i s (abortCommand r s).1 :=
  withStream_effect fun n => withPresent_effect (.abort n)

theorem extendCommand_effect : CommandEffect i s (extendCommand r s).1 :=
  withStream_effect fun n => withPresent_effect <|
    ite_effect .nothing <| ite_effect .nothing <| ite_effect .nothing <| ite_effect .nothing <| .entry n _ rfl rfl rfl

theorem setLevelCommand_effect : CommandEffect i s (setLevelCommand r s).1 :=
  withStream_effect fun n => ite_effect (withPresent_effect <| ite_effect .nothing <| .entry n _ rfl rfl rfl) .nothing

theorem clearFaultCommand_effect : CommandEffect i s (clearFaultCommand r s).1 :=
  withStream_effect fun n => withPresent_effect <| .entry n _ rfl rfl rfl

theorem queryFaults_effect : CommandEffect i s (queryFaults r s).1 := by
  refine withStream_effect fun n => ?_
  dsimp only
  split
  · exact .entry n _ rfl rfl rfl
  · exact .nothing

theorem setTime_effect : CommandEffect .setTime s (setTime r s).1 := ite_effect .nothing (.time _ rfl)

theorem setLine_effect : CommandEffect i s (setLine r s).1 := ite_effect .nothing (.line _)

theorem resetPart_effect : CommandEffect i s (doneWith s.softReset).1 := by
  simp only [doneWith]
  exact .resetPart

/-- The row of a command executes effects of this kind. -/
theorem exec_eq_execute {i : Instr} (hi : i ∈ commandRows) :
    ∃ f, exec i = execute i f ∧ ∀ r s, CommandEffect i s (f r s).1 := by
  simp only [commandRows, commandTable, List.map_cons, List.map_nil, List.mem_cons, List.not_mem_nil, or_false] at hi
  obtain rfl | rfl | rfl | rfl | rfl | rfl | rfl | rfl | rfl | rfl | rfl | rfl | rfl | rfl | rfl | rfl | rfl | rfl | rfl := hi
  · exact ⟨_, rfl, fun _ _ => .nothing⟩
  · exact ⟨_, rfl, fun _ _ => .nothing⟩
  · exact ⟨_, rfl, fun _ _ => definePort_effect⟩
  · exact ⟨_, rfl, fun _ _ => defineStream_effect⟩
  · exact ⟨_, rfl, fun _ _ => defineDetector_effect⟩
  · exact ⟨_, rfl, fun _ _ => defineWatch_effect⟩
  · exact ⟨_, rfl, fun _ _ => applyCommand_effect⟩
  · exact ⟨_, rfl, fun _ _ => startCommand_effect⟩
  · exact ⟨_, rfl, fun _ _ => stopCommand_effect⟩
  · exact ⟨_, rfl, fun _ _ => abortCommand_effect⟩
  · exact ⟨_, rfl, fun _ _ => extendCommand_effect⟩
  · exact ⟨_, rfl, fun _ _ => setLevelCommand_effect⟩
  · exact ⟨_, rfl, fun _ _ => clearFaultCommand_effect⟩
  · exact ⟨_, rfl, fun _ _ => withStream_effect fun _ => .nothing⟩
  · exact ⟨_, rfl, fun _ _ => queryFaults_effect⟩
  · exact ⟨_, rfl, fun _ _ => withObject_effect fun _ => .nothing⟩
  · exact ⟨_, rfl, fun _ _ => setTime_effect⟩
  · exact ⟨_, rfl, fun _ _ => setLine_effect⟩
  · exact ⟨fun _ s => doneWith s.softReset, rfl, fun _ _ => resetPart_effect⟩

/-- `t`, with the result of this record due (R139). -/
def State.withResult (t : State) (r : CommandRecord) (res : CommandResult) : State :=
  { t with cmd := { t.cmd with state := .writing r res } }

/-- A relation holds along every command if it holds along every effect, with the result due after it. -/
theorem leads_command (hrefl : ∀ s, R s s) (hi : i ∈ commandRows)
    (hf : ∀ r s t res, s.live = true → s.cmd.state = .executing r → CommandEffect i s t → R s (t.withResult r res)) :
    Leads R (exec i) := by
  obtain ⟨f, hexec, heffect⟩ := exec_eq_execute hi
  rw [hexec]
  refine leads_whenLive hrefl fun s hlive => ?_
  split
  · next r hr =>
    split
    · exact hf r s _ _ hlive hr (heffect r s)
    · exact hrefl s
  all_goals exact hrefl s

end Leads

end Sys2Proof.Machine

/-! PROOF. The steps as a whole (log 1, log 25): what every command leaves, which steps move memory, the time tag and the part state,
and that memory keeps its canonical form. -/

namespace Sys2Proof.Machine

open Sys2Proof Sys2Proof.Claims

/-- A walk over objects keeps what the work at each object keeps. -/
theorem foldl_rel {α : Type} {R : State → State → Prop} (hrefl : ∀ s, R s s) (htrans : ∀ s t u, R s t → R t u → R s u)
    {f : State → α → State} (hf : ∀ s a, R s (f s a)) (l : List α) (s : State) : R s (l.foldl f s) := by
  induction l generalizing s with
  | nil => exact hrefl s
  | cons a l ih => exact htrans _ _ _ (hf s a) (ih _)

/-! ### What APPLY and RESET PART leave -/

/-- Only the phase of the Path Unit, the use of the memory port, the rings and the tables differ. -/
def TablesOnly (s t : State) : Prop :=
  t = { s with path := { s.path with phase := t.path.phase }, arb := { s.arb with use := t.arb.use }, rings := t.rings
               streams := t.streams, ports := t.ports, detectors := t.detectors, watches := t.watches }

theorem tablesOnly_refl (s : State) : TablesOnly s s := rfl

theorem tablesOnly_trans (s t u : State) (h : TablesOnly s t) (h' : TablesOnly t u) : TablesOnly s u := by
  unfold TablesOnly at h h'
  rw [h] at h'
  exact h'

theorem tablesOnly_applyPort (s : State) (p : Fin 4) : TablesOnly s (s.applyPort p) := rfl

theorem tablesOnly_applyDetector (s : State) (p : Fin 4) : TablesOnly s (s.applyDetector p) := rfl

theorem tablesOnly_applyWatch (s : State) (w : Fin 4) : TablesOnly s (s.applyWatch w) := rfl

theorem tablesOnly_dropClaims (s : State) (n : Fin 8) : TablesOnly s (s.dropClaims n) := rfl

theorem tablesOnly_emptyFifo (s : State) (n : Fin 8) : TablesOnly s (s.emptyFifo n) := by
  simp only [State.emptyFifo]
  split <;> rfl

theorem tablesOnly_rejudgeHeld (s : State) (n : Fin 8) : TablesOnly s (s.rejudgeHeld n) := by
  obtain h | ⟨ph, h⟩ := rejudgeHeld_cases s n <;> rw [h] <;> rfl

theorem tablesOnly_applyStream (s : State) (n : Fin 8) : TablesOnly s (s.applyStream n) := by
  have hring : ∀ e v, TablesOnly s (((s.dropClaims n).setStream n e).setRing (.stream n) v) := fun _ _ => rfl
  refine tablesOnly_trans _ _ _ ?_ (tablesOnly_rejudgeHeld _ n)
  split
  · exact tablesOnly_trans _ _ _ (hring _ _) (tablesOnly_emptyFifo _ n)
  · exact tablesOnly_trans _ _ _ (tablesOnly_trans _ _ _ (hring _ _) (tablesOnly_emptyFifo _ n)) rfl

/-- APPLY changes the tables and what stands against the rings, and nothing else (R152). -/
theorem tablesOnly_applyAll (s : State) (o : ObjectSet) : TablesOnly s (s.applyAll o) := by
  have hfold := fun {α : Type} {f : State → α → State} (hf : ∀ s a, TablesOnly s (f s a)) =>
    foldl_rel tablesOnly_refl tablesOnly_trans hf
  exact tablesOnly_trans _ _ _ (tablesOnly_trans _ _ _ (tablesOnly_trans _ _ _ (hfold tablesOnly_applyPort _ _)
    (hfold tablesOnly_applyStream _ _)) (hfold tablesOnly_applyDetector _ _)) (hfold tablesOnly_applyWatch _ _)

/-- What the effects of every command leave, but for SET TIME. -/
structure CommandFrame (s t : State) : Prop where
  start : t.start = s.start
  bus : t.path.bus = s.path.bus
  pd : t.path.pd = s.path.pd
  counts : t.arb.counts = s.arb.counts
  engines : t.engines = s.engines
  cmdState : t.cmd.state = s.cmd.state
  time : t.time = s.time
  mem : t.mem = s.mem
  freeCount : t.freeCount = s.freeCount
  pending : t.pending = s.pending

theorem CommandFrame.refl (s : State) : CommandFrame s s := ⟨rfl, rfl, rfl, rfl, rfl, rfl, rfl, rfl, rfl, rfl⟩

theorem CommandFrame.trans {s t u : State} (h : CommandFrame s t) (h' : CommandFrame t u) : CommandFrame s u :=
  ⟨h'.start.trans h.start, h'.bus.trans h.bus, h'.pd.trans h.pd, h'.counts.trans h.counts, h'.engines.trans h.engines,
    h'.cmdState.trans h.cmdState, h'.time.trans h.time, h'.mem.trans h.mem, h'.freeCount.trans h.freeCount,
    h'.pending.trans h.pending⟩

theorem CommandFrame.of_portStepFrame {s t : State} (h : PortStepFrame s t) : CommandFrame s t := by
  obtain ⟨hstart, hpath, hcounts, -, hengines, -, hcmd, htime, hmem, hfree, hpending⟩ := h
  exact ⟨hstart, by rw [hpath], by rw [hpath], hcounts, hengines, by rw [hcmd], htime, hmem, hfree, hpending⟩

theorem CommandFrame.of_tablesOnly {s t : State} (h : TablesOnly s t) : CommandFrame s t := by
  unfold TablesOnly at h
  rw [h]
  exact ⟨rfl, rfl, rfl, rfl, rfl, rfl, rfl, rfl, rfl, rfl⟩

theorem commandFrame_endStreams (s : State) : CommandFrame s s.endStreams :=
  foldl_rel CommandFrame.refl (fun _ _ _ => .trans)
    (fun s _ => .of_portStepFrame (portWork_abortStream rfl s .reset).frame) allStreams s

theorem tablesOnly_dropAllClaims (s : State) : TablesOnly s (allStreams.foldl State.dropClaims s) :=
  foldl_rel tablesOnly_refl tablesOnly_trans tablesOnly_dropClaims allStreams s

theorem commandFrame_removeDefinitions (s : State) : CommandFrame s s.removeDefinitions :=
  (CommandFrame.of_tablesOnly (tablesOnly_dropAllClaims s)).trans ⟨rfl, rfl, rfl, rfl, rfl, rfl, rfl, rfl, rfl, rfl⟩

theorem commandFrame_passThrough (s : State) : CommandFrame s s.passThrough := by
  simp only [State.passThrough]
  split
  · exact ⟨rfl, rfl, rfl, rfl, rfl, rfl, rfl, rfl, rfl, rfl⟩
  · exact .refl s

theorem commandFrame_softReset (s : State) : CommandFrame s s.softReset :=
  ((commandFrame_endStreams s).trans (commandFrame_removeDefinitions _)).trans (commandFrame_passThrough _)

/-- Start-up, memory, the queue and what the processor port shows stand through every command; the time tag through all but
SET TIME. -/
theorem CommandEffect.frame {i : Instr} {s t : State} (h : CommandEffect i s t) :
    CommandFrame { s with time := t.time } t ∧ (i ≠ .setTime → t.time = s.time) := by
  have hkept : ∀ {t}, CommandFrame s t → CommandFrame { s with time := t.time } t ∧ (i ≠ .setTime → t.time = s.time) :=
    fun {t} h => ⟨⟨h.start, h.bus, h.pd, h.counts, h.engines, h.cmdState, rfl, h.mem, h.freeCount, h.pending⟩, fun _ => h.time⟩
  cases h with
  | apply o _ => exact hkept (.of_tablesOnly (tablesOnly_applyAll s o))
  | start n d armed _ _ => exact hkept (.of_portStepFrame (portWork_beginRun rfl s d armed).frame)
  | stop _ => exact hkept (.of_portStepFrame (portWork_stopStream rfl s).frame)
  | abort _ => exact hkept (.of_portStepFrame (portWork_abortStream rfl s .aborted).frame)
  | resetPart => exact hkept (commandFrame_softReset s)
  | time x hi => exact ⟨⟨rfl, rfl, rfl, rfl, rfl, rfl, rfl, rfl, rfl, rfl⟩, fun hne => absurd hi hne⟩
  | _ => exact hkept ⟨rfl, rfl, rfl, rfl, rfl, rfl, rfl, rfl, rfl, rfl⟩

/-! ### Which steps move what -/

/-- The steps at which memory changes. -/
def Stores (i : Instr) : Prop :=
  (∃ a, i = .accessArrival a) ∨ i = .passageComplete ∨ i = .depositWordComplete ∨ i = .commandResultWritten ∨
    i = .eventRecordWritten ∨ i = .identityFirstBurstComplete ∨ i = .identityBurstComplete ∨ i = .rstFall

/-- The steps at which the time tag changes. -/
def MovesTime (i : Instr) : Prop :=
  i = .tagclkEdge ∨ i = .internalTimeTagIncrease ∨ i = .setTime ∨ i = .rstFall ∨ ∃ b q, i = .rstRise b q

/-- The steps at which the part state changes. -/
def MovesPart (i : Instr) : Prop := i = .identityBurstComplete ∨ i = .rstFall ∨ ∃ b q, i = .rstRise b q

/-- What a step of this command leaves: the queue always, memory, the time tag and the part state but for its own, and the
canonical form of memory. -/
structure StepFrame (i : Instr) (s t : State) : Prop where
  pending : t.pending = s.pending
  mem : Stores i ∨ t.mem = s.mem
  wf : Memory.wf s.mem = true → Memory.wf t.mem = true
  time : MovesTime i ∨ t.time = s.time
  part : MovesPart i ∨ t.start.part = s.start.part ∧ t.start.base = s.start.base ∧ t.start.bpar = s.start.bpar

/-- Memory, the time tag, the part state with its straps, and the queue. -/
def State.board (s : State) : List Host.Cell × TimeTag × List Instr × PartState × BitVec 4 × Bool :=
  (s.mem, s.time, s.pending, s.start.part, s.start.base, s.start.bpar)

theorem board_eq {s t : State} (hmem : t.mem = s.mem) (htime : t.time = s.time) (hpending : t.pending = s.pending)
    (hstart : t.start = s.start) : t.board = s.board := by
  rw [State.board, State.board, hmem, htime, hpending, hstart]

theorem StepFrame.of_board {i : Instr} {s t : State} (h : t.board = s.board) : StepFrame i s t := by
  simp only [State.board, Prod.mk.injEq] at h
  obtain ⟨hmem, htime, hpending, hpart⟩ := h
  exact ⟨hpending, .inr hmem, fun hwf => hmem ▸ hwf, .inr htime, .inr hpart⟩

/-- A step that moves memory only. -/
theorem StepFrame.of_store {i : Instr} {s t : State} (hi : Stores i) (hwf : Memory.wf s.mem = true → Memory.wf t.mem = true)
    (h : { t with mem := s.mem }.board = s.board) : StepFrame i s t := by
  have hframe : StepFrame i s { t with mem := s.mem } := .of_board h
  exact ⟨hframe.pending, .inl hi, hwf, hframe.time, hframe.part⟩

theorem StepFrame.refl (i : Instr) (s : State) : StepFrame i s s := .of_board rfl

theorem board_of_portWork {p : Fin 4} {s t : State} (h : PortWork p s t) : t.board = s.board := by
  obtain ⟨hstart, -, -, -, -, -, -, htime, hmem, -, hpending⟩ := h.frame
  exact board_eq hmem htime hpending hstart

theorem commandRows_stepFrame {i : Instr} (hi : i ∈ commandRows) : Leads (StepFrame i) (exec i) := by
  refine leads_command (StepFrame.refl i) hi fun r s t res _ _ heffect => ?_
  obtain ⟨hframe, htime⟩ := heffect.frame
  refine ⟨hframe.pending, .inr hframe.mem, fun hwf => ?_, ?_, .inr ?_⟩
  · exact hframe.mem.symm ▸ hwf
  · by_cases h : i = .setTime
    · exact .inl (.inr (.inr (.inl h)))
    · exact .inr (htime h)
  · exact ⟨congrArg StartUp.part hframe.start, congrArg StartUp.base hframe.start, congrArg StartUp.bpar hframe.start⟩

/-! ### The steps of a sample port -/

theorem frameBoundary_portWork (p : Fin 4) (fsy : List Bool) : Leads (PortWork p) (exec (.frameBoundary p fsy)) := by
  refine leads_whenLive (.refl p) fun s _ => ?_
  split
  · exact .refl p s
  · split
    · exact .refl p s
    · exact portWork_boundaryAt ..

theorem lateFrame_portWork (p : Fin 4) : Leads (PortWork p) (exec (.lateFrame p)) := by
  refine leads_whenLive (.refl p) fun s _ => ?_
  split
  · refine .ite (.ite (.after (portWork_frameFault ..) (portWork_setPort rfl)) (portWork_setPort rfl)) (.refl p s)
  · exact .refl p s

theorem channelSlotStart_portWork (p : Fin 4) : Leads (PortWork p) (exec (.channelSlotStart p)) := by
  refine leads_whenLive (.refl p) fun s _ => ?_
  split
  · refine .ite ?_ (.refl p s)
    dsimp only
    split
    iterate 2 exact (portWork_enterSlot ..).trans (portWork_transmitSlot ..)
    all_goals exact (portWork_enterSlot ..).trans (portWork_sendWord ..)
  · exact .refl p s

theorem rxChannelWordComplete_portWork (p : Fin 4) (sdi : Vector Bool 16) :
    Leads (PortWork p) (exec (.rxChannelWordComplete p sdi)) := by
  have hhear : ∀ (e : DetectorEntry) (c : Nat) (w : Word), (e.hear c w).active = e.active := fun e c w => by
    simp only [DetectorEntry.hear]
    split
    · rfl
    · split <;> rfl
  refine leads_whenLive (.refl p) fun s _ => ?_
  split
  · refine .ite (.ite ?_ ?_) (.refl p s)
    · exact .after (portWork_setDetector (hhear ..)) (portWork_setPort rfl)
    · exact portWork_setPort rfl
  · exact .refl p s

theorem starvationExpiry_portWork (p : Fin 4) : Leads (PortWork p) (exec (.starvationExpiry p)) := by
  refine leads_whenLive (.refl p) fun s _ => ?_
  dsimp only
  split
  · exact portWork_setStream (portOf_txOf p) rfl
  · exact .refl p s

theorem rxStoppingDrained_portWork (p : Fin 4) : Leads (PortWork p) (exec (.rxStoppingDrained p)) :=
  leads_whenLive (.refl p) fun s _ => .ite (portWork_endRun (portOf_rxOf p) s .stopped) (.refl p s)

theorem rxRunComplete_portWork (p : Fin 4) : Leads (PortWork p) (exec (.rxRunComplete p)) :=
  leads_whenLive (.refl p) fun s _ => .ite (portWork_endRun (portOf_rxOf p) s .complete) (.refl p s)

theorem Leads.mono {R R' : State → State → Prop} {o : State → Host.Outcome State Fault Refusal} (h : Leads R o)
    (hR : ∀ s t, R s t → R' s t) : Leads R' o := fun s => by
  obtain ⟨t, ht, hst⟩ := h s
  exact ⟨t, ht, hR s t hst⟩

theorem stepFrame_of_portWork {p : Fin 4} {i : Instr} (h : Leads (PortWork p) (exec i)) : Leads (StepFrame i) (exec i) :=
  h.mono fun _ _ hwork => .of_board (board_of_portWork hwork)

/-! ### The other steps -/

theorem startFetch_board (s : State) : s.startFetch.board = s.board := by
  simp only [State.startFetch]
  split
  · rfl
  · split <;> rfl

theorem startDeposit_board (s : State) : s.startDeposit.board = s.board := by
  simp only [State.startDeposit]
  split
  · rfl
  · split <;> rfl

theorem startRecord_board (s : State) : s.startRecord.board = s.board := by
  simp only [State.startRecord]
  split
  · rfl
  · rfl
  all_goals split <;> rfl

theorem startCommand_board (s : State) : s.startCommand.board = s.board := by
  simp only [State.startCommand]
  split <;> rfl

theorem startBurst_board (s : State) (r : Requester) : (s.startBurst r).board = s.board := by
  cases r with
  | deposit => exact startDeposit_board s
  | fetch => exact startFetch_board s
  | record => exact startRecord_board s
  | command => exact startCommand_board s

theorem grant_board (s : State) : s.grant.board = s.board := by
  simp only [State.grant]
  split
  · rfl
  · split
    · exact startBurst_board _ _
    · rfl

theorem releaseAt_board (s : State) (r : RingId) (slot : Nat) : (s.releaseAt r slot).board = s.board :=
  board_eq (by simp) (by simp) (by simp) (by simp)

theorem fetchWord_board (s : State) (b : FetchBurst) (a : Addr) : (s.fetchWord b a).board = s.board := by
  simp only [State.fetchWord]
  split
  · split
    · rw [board_of_portWork (portWork_joinTx ..), releaseAt_board]
      rfl
    · rw [releaseAt_board]
      rfl
  · rfl

theorem expire_board (s : State) (a : Access) (r : RingId) (slot : Nat) : (s.expire a r slot).board = s.board :=
  board_eq (by simp) (by simp) (by simp) (by simp)

theorem answer_board (s : State) (a : Access) (r : RingId) (slot w : Nat) (x : Answer) :
    (s.answer a r slot w x).board = s.board := by
  cases x with
  | pass e => rfl
  | substitute w => rfl
  | hold =>
    simp only [State.answer]
    split
    · rfl
    · exact expire_board ..

theorem raiseHits_board (s : State) (a : Access) (data : Word) (blocked : Bool) (hits : List (Fin 4)) :
    (s.raiseHits a data blocked hits).board = s.board :=
  foldl_rel (R := fun s t => t.board = s.board) (f := fun (s : State) (w : Fin 4) => s.raisePart .watchHit (BitVec.ofNat 8 w.val)
    (data &&& a.laneMask) (a.addr.extractLsb' 0 16) (if blocked then 1 else 0)) (fun _ => rfl) (fun _ _ _ h h' => h'.trans h)
    (fun _ _ => rfl) hits s

theorem watchWrite_board (s : State) (a : Access) (data : Word) : (s.watchWrite a data).board = s.board := by
  have hraised : ({ s with watches := map4 (fun e => WatchEntry.after e a data) s.watches }.raiseHits a data
    (s.watchBlocks a data) (s.watchHits a data)).board = s.board := by
    rw [raiseHits_board]
    rfl
  simp only [State.watchWrite]
  split <;> exact hraised

theorem takeAccess_board (s : State) (a : Access) : (s.takeAccess a).board = s.board := by
  simp only [State.takeAccess]
  split
  · rfl
  · split
    · rfl
    · exact answer_board ..
    · split
      · rfl
      · exact watchWrite_board ..

theorem ramAccess_wf (s : State) (a : Access) (h : Memory.wf s.mem = true) : Memory.wf (s.ramAccess a).mem = true := by
  rw [ramAccess_mem]
  split
  · exact h
  · exact store_wf _ _ _ _ _ h

theorem ramAccess_board (s : State) (a : Access) : { s.ramAccess a with mem := s.mem }.board = s.board :=
  board_eq rfl (by simp) (by simp) (by simp)

theorem accessArrival_stepFrame (c : BusCycle) : Leads (StepFrame (.accessArrival c)) (exec (.accessArrival c)) := by
  intro s
  simp only [exec, execAccessArrival]
  split
  · exact ⟨s, rfl, .refl _ s⟩
  · next a _ =>
    split
    · split
      · refine ⟨_, rfl, .of_board ?_⟩
        rw [takeAccess_board]
        rfl
      · exact ⟨s, rfl, .refl _ s⟩
    · exact ⟨_, rfl, .of_store (.inl ⟨c, rfl⟩) (ramAccess_wf (s.setBus (some c)) a) (ramAccess_board (s.setBus (some c)) a)⟩

theorem passageComplete_stepFrame : Leads (StepFrame .passageComplete) (exec .passageComplete) := by
  refine leads_whenLive (.refl _) fun s _ => ?_
  split
  · next a e _ _ =>
    refine .of_store (.inr (.inl rfl)) (fun h => ?_) (board_eq rfl (by simp) (by simp) (by simp))
    have hmem : ((((s.setUse .free).ramAccess a).endAccess).makeEffect e).mem = ((s.setUse .free).ramAccess a).mem := by simp
    rw [hmem]
    exact ramAccess_wf _ a h
  · exact .refl _ s

/-- A word of a deposit burst whose ring stands reaches memory (R39). -/
theorem depositWord_board {b : DepositBurst} (h : b.ringStands = true) (s : State) (a : Addr) (w : Word) :
    (s.depositWord b a w).board = { s with mem := Memory.store s.mem a true true w }.board := by
  have hcount : ∀ u : State, (if b.runStands then u.countDeposit b.port else u).board = u.board := fun u => by
    split
    · exact board_of_portWork (portWork_countDeposit ..)
    · rfl
  simp only [State.depositWord, if_pos h]
  rw [board_of_portWork (portWork_processMarks ..), hcount, releaseAt_board]
  rfl

/-- Without its ring the word is dropped (R35, R71). -/
theorem depositWord_of_ring_gone {b : DepositBurst} (h : b.ringStands = false) (s : State) (a : Addr) (w : Word) :
    s.depositWord b a w = s.setUse b.next := by
  simp [State.depositWord, h]

theorem depositWordComplete_stepFrame : Leads (StepFrame .depositWordComplete) (exec .depositWordComplete) := by
  refine leads_whenLive (.refl _) fun s _ => ?_
  split
  · next b _ =>
    split
    · next a w _ _ =>
      by_cases hb : b.ringStands = true
      · have hboard := depositWord_board hb s a w
        simp only [State.board, Prod.mk.injEq] at hboard
        obtain ⟨hmem, htime, hpending, hpart⟩ := hboard
        exact ⟨hpending, .inl (by simp [Stores]), fun h => hmem ▸ store_wf _ _ _ _ _ h, .inr htime, .inr hpart⟩
      · rw [depositWord_of_ring_gone (Bool.eq_false_iff.2 hb)]
        exact .of_board rfl
    · exact .of_board rfl
  · exact .refl _ s

theorem takeCommand_board (s : State) : s.takeCommand.board = s.board :=
  board_eq (by simp) (by simp) (by simp) (by simp)

theorem afterResult_board (s : State) (r : CommandRecord) : (s.afterResult r).board = s.board := by
  simp only [State.afterResult]
  split
  · simp only [State.requestIdentity, IdentityWrite.request]
    rfl
  · rfl

/-- A step that lands these words and leaves the rest of the board. -/
theorem StepFrame.of_storeAll {i : Instr} {s t : State} (hi : Stores i) (ws : List (Addr × Word))
    (h : t.board = { s with mem := Memory.storeAll s.mem ws }.board) : StepFrame i s t := by
  simp only [State.board, Prod.mk.injEq] at h
  obtain ⟨hmem, htime, hpending, hpart⟩ := h
  exact ⟨hpending, .inl hi, fun hwf => hmem ▸ storeAll_wf ws _ hwf, .inr htime, .inr hpart⟩

theorem commandResultWritten_stepFrame : Leads (StepFrame .commandResultWritten) (exec .commandResultWritten) := by
  refine leads_whenLive (.refl _) fun s _ => ?_
  split
  · next ws r res _ _ =>
    refine .of_storeAll (by simp [Stores]) ws ?_
    have hout : ((((s.landBurst ws).consumeRing .command).releaseAt .command r.slot).afterResult r).board =
        { s with mem := Memory.storeAll s.mem ws }.board := by
      rw [afterResult_board, releaseAt_board]
      rfl
    rw [takeCommand_board]
    exact hout
  · exact .refl _ s

theorem eventRecordWritten_stepFrame : Leads (StepFrame .eventRecordWritten) (exec .eventRecordWritten) := by
  refine leads_whenLive (.refl _) fun s _ => ?_
  split
  · next ws _ => exact .of_storeAll (by simp [Stores]) ws rfl
  · exact .refl _ s

theorem identityFirstBurstComplete_stepFrame :
    Leads (StepFrame .identityFirstBurstComplete) (exec .identityFirstBurstComplete) := by
  refine leads_whenLive (.refl _) fun s _ => ?_
  split
  · next ws _ => exact .of_storeAll (by simp [Stores]) ws rfl
  · exact .refl _ s

@[simp] theorem enterOperating_keeps (s : State) :
    let t := s.enterOperating
    t.mem = s.mem ∧ t.time = s.time ∧ t.pending = s.pending ∧ t.streams = s.streams ∧ t.ports = s.ports ∧
    t.detectors = s.detectors ∧ t.cmd.staged = s.cmd.staged ∧ t.rings = s.rings ∧ t.path = s.path ∧ t.arb = s.arb ∧
    t.events = s.events := by
  simp only [State.enterOperating]
  split <;> simp

theorem identityBurstComplete_stepFrame : Leads (StepFrame .identityBurstComplete) (exec .identityBurstComplete) := by
  refine leads_whenLive (.refl _) fun s _ => ?_
  split
  · next ws _ =>
    refine ⟨by simp [State.raiseStarted, State.raisePart, State.landBurst], .inl (by simp [Stores]), fun hwf => ?_,
      .inr (by simp [State.raiseStarted, State.raisePart, State.landBurst]), .inl (.inl rfl)⟩
    simpa [State.raiseStarted, State.raisePart, State.landBurst] using storeAll_wf ws _ hwf
  · exact .refl _ s

theorem cutBurst_wf (s : State) (h : Memory.wf s.mem = true) : Memory.wf s.cutBurst.mem = true := by
  simp only [State.cutBurst]
  split
  · exact h
  · exact storeAll_wf _ _ h

theorem cutAccess_wf (s : State) (h : Memory.wf s.mem = true) : Memory.wf s.cutAccess.mem = true := by
  simp only [State.cutAccess]
  split
  · exact ramAccess_wf s _ h
  · exact ramAccess_wf s _ h
  all_goals exact h

theorem cutBurst_pending (s : State) : s.cutBurst.pending = s.pending := by
  simp only [State.cutBurst]
  split <;> rfl

theorem cutAccess_pending (s : State) : s.cutAccess.pending = s.pending := by
  simp only [State.cutAccess]
  split <;> simp

theorem rstFall_stepFrame : Leads (StepFrame .rstFall) (exec .rstFall) := by
  intro s
  simp only [exec, execRstFall]
  split
  · exact ⟨s, rfl, .refl _ s⟩
  all_goals
    refine ⟨_, rfl, (cutAccess_pending _).trans (cutBurst_pending s), .inl (by simp [Stores]), fun h => ?_,
      .inl (by simp [MovesTime]), .inl (by simp [MovesPart])⟩
    exact cutAccess_wf _ (cutBurst_wf s h)

theorem rstRise_stepFrame (b : BitVec 4) (q : Bool) : Leads (StepFrame (.rstRise b q)) (exec (.rstRise b q)) := by
  intro s
  simp only [exec, execRstRise]
  split
  · exact ⟨_, rfl, rfl, .inr rfl, id, .inl (by simp [MovesTime]), .inl (by simp [MovesPart])⟩
  all_goals exact ⟨s, rfl, .refl _ s⟩

/-- A step that counts the time tag moves nothing else. -/
theorem countTag_stepFrame {i : Instr} (hi : MovesTime i) (s : State) : StepFrame i s s.countTag :=
  ⟨rfl, .inr rfl, id, .inl hi, .inr ⟨rfl, rfl, rfl⟩⟩

/-- Every command answers a next state within its frame. -/
theorem exec_stepFrame (i : Instr) : Leads (StepFrame i) (exec i) := by
  cases i with
  | accessArrival c => exact accessArrival_stepFrame c
  | arbiterGrant =>
    refine leads_whenLive (.refl _) fun s _ => ?_
    split
    · exact .of_board (grant_board s)
    · exact .refl _ s
  | passageComplete => exact passageComplete_stepFrame
  | holdExpiry =>
    refine leads_whenLive (.refl _) fun s _ => ?_
    split
    · exact .of_board (expire_board ..)
    · exact .refl _ s
  | fetchWordComplete =>
    refine leads_whenLive (.refl _) fun s _ => ?_
    split
    · split
      · exact .of_board (fetchWord_board ..)
      · exact .of_board rfl
    · exact .refl _ s
  | depositWordComplete => exact depositWordComplete_stepFrame
  | rxStoppingDrained p => exact stepFrame_of_portWork (rxStoppingDrained_portWork p)
  | rxRunComplete p => exact stepFrame_of_portWork (rxRunComplete_portWork p)
  | commandRecordRead =>
    refine leads_whenLive (.refl _) fun s _ => ?_
    split
    · exact .of_board rfl
    · exact .refl _ s
  | commandResultWritten => exact commandResultWritten_stepFrame
  | eventRecordWritten => exact eventRecordWritten_stepFrame
  | intPulseEnd => exact leads_whenLive (.refl _) fun s _ => .of_board rfl
  | identityBurstComplete => exact identityBurstComplete_stepFrame
  | frameBoundary p fsy => exact stepFrame_of_portWork (frameBoundary_portWork p fsy)
  | lateFrame p => exact stepFrame_of_portWork (lateFrame_portWork p)
  | channelSlotStart p => exact stepFrame_of_portWork (channelSlotStart_portWork p)
  | rxChannelWordComplete p sdi => exact stepFrame_of_portWork (rxChannelWordComplete_portWork p sdi)
  | starvationExpiry p => exact stepFrame_of_portWork (starvationExpiry_portWork p)
  | trigEdge =>
    refine leads_whenLive (.refl _) fun s _ => ?_
    split
    · exact .refl _ s
    · exact .of_board rfl
  | tagclkEdge =>
    refine leads_whenLive (.refl _) fun s _ => ?_
    split
    · exact countTag_stepFrame (.inl rfl) s
    · exact .refl _ s
  | internalTimeTagIncrease =>
    refine leads_whenLive (.refl _) fun s _ => ?_
    split
    · exact countTag_stepFrame (.inr (.inl rfl)) s
    · exact .refl _ s
  | rstFall => exact rstFall_stepFrame
  | rstRise b q => exact rstRise_stepFrame b q
  | identityFirstBurstComplete => exact identityFirstBurstComplete_stepFrame
  | pcsOrStrobesHigh =>
    intro s
    simp only [exec, execPcsOrStrobesHigh]
    split <;> exact ⟨_, rfl, .of_board rfl⟩
  | _ => exact commandRows_stepFrame (by simp [commandRows, commandTable])

/-! ### The two kinds of step -/

theorem step_of_front {s : State} {c : Instr} {rest : List Instr} (h : s.pending = c :: rest) :
    step s = exec c { s with pending := rest } := by
  rw [step, h]

theorem step_of_empty {s : State} (h : s.pending = []) : step s = .next s.tick := by
  rw [step, h]

/-- A property of the state that does not see the queue is kept by every step, if it is kept by a microsecond and by every
command. -/
theorem step_keeps {P : State → Prop} (hqueue : ∀ (s : State) q, P s → P { s with pending := q }) (htick : ∀ s, P s → P s.tick)
    (hexec : ∀ i, Leads (fun s t => P s → P t) (exec i)) {s t : State} (hs : P s) (hstep : step s = .next t) : P t := by
  cases hp : s.pending with
  | nil =>
    rw [step_of_empty hp] at hstep
    cases hstep
    exact htick s hs
  | cons c rest =>
    rw [step_of_front hp] at hstep
    exact (hexec c).of_next hstep (hqueue s rest hs)

theorem tick_mem (s : State) : s.tick.mem = s.mem := by
  simp only [State.tick]
  split <;> rfl

end Sys2Proof.Machine

namespace Sys2Proof.Proofs

open Sys2Proof Sys2Proof.Machine Sys2Proof.Claims

/-- Settles O57: memory changes by stores only, and each keeps the canonical form. -/
theorem memoryStaysCanonical : Obligations.MemoryStaysCanonical := fun _ _ hwf hstep =>
  step_keeps (P := fun s => Memory.wf s.mem = true) (fun _ _ => id) (fun s h => (tick_mem s).symm ▸ h)
    (fun i => (exec_stepFrame i).mono fun _ _ h => h.wf) hwf hstep

/-- Settles O3: every meaning answers a next state whose queue is that before it. -/
theorem everyCommandGoesOnAndLeavesTheQueue : Obligations.EveryCommandGoesOnAndLeavesTheQueue := fun c s => by
  obtain ⟨t, ht, hframe⟩ := exec_stepFrame c s
  exact ⟨t, ht, hframe.pending⟩

/-- Settles O5: the frame of every command names the steps of memory, of the time tag and of the part state. -/
theorem memoryTimeAndPartStateChangeAtTheirStepsOnly : Obligations.MemoryTimeAndPartStateChangeAtTheirStepsOnly := by
  intro c s t ht
  have hframe := (exec_stepFrame c).of_next ht
  refine ⟨fun h1 h2 h3 h4 h5 h6 h7 h8 => hframe.mem.resolve_left ?_, fun h1 h2 h3 h4 h5 => hframe.time.resolve_left ?_,
    fun h1 h2 h3 => hframe.part.resolve_left ?_⟩
  · simp_all [Stores]
  · simp_all [MovesTime]
  · simp_all [MovesPart]

/-- Settles O1: the front command is the first arm of a step. -/
theorem stepRunsTheFrontCommand : Obligations.StepRunsTheFrontCommand := fun _ _ _ h => step_of_front h

end Sys2Proof.Proofs

/-! PROOF. The life cycle of a stream (R49): most of the work of a port leaves the state of every stream, and does not push a FIFO past
its bound; the operations that move a stream move it along an edge of the table. -/

namespace Sys2Proof.Machine

open Sys2Proof Sys2Proof.Claims

/-- The bounds of an RX FIFO (R98, R102): an open gate has room for its END mark. -/
def RxBounded (s : State) (p : Fin 4) : Prop :=
  placeCount (s.port p).rxFifo ≤ 32 ∧ markCount (s.port p).rxFifo ≤ 8 ∧
    ((s.stream (rxOf p)).gateOpen = true → markCount (s.port p).rxFifo ≤ 7)

/-- The TX FIFO of the port has not grown, and its RX FIFO is within its bounds if it was. -/
structure FifosKept (p : Fin 4) (s t : State) : Prop where
  tx : (t.port p).txFifo.length ≤ (s.port p).txFifo.length
  rx : RxBounded s p → RxBounded t p

/-- And every stream is in the state it was in. -/
structure Steady (p : Fin 4) (s t : State) : Prop where
  state : ∀ m, (t.stream m).state = (s.stream m).state
  fifos : FifosKept p s t

section Chain

variable {p : Fin 4} {s t u : State}

theorem FifosKept.refl (p : Fin 4) (s : State) : FifosKept p s s := ⟨Nat.le_refl _, id⟩

theorem FifosKept.trans (h : FifosKept p s t) (h' : FifosKept p t u) : FifosKept p s u :=
  ⟨Nat.le_trans h'.tx h.tx, fun hb => h'.rx (h.rx hb)⟩

theorem FifosKept.ite {c : Prop} [Decidable c] (h : FifosKept p s t) (h' : FifosKept p s u) :
    FifosKept p s (if c then t else u) := by
  split
  · exact h
  · exact h'

theorem FifosKept.of_le (htx : (t.port p).txFifo.length ≤ (s.port p).txFifo.length)
    (hplaces : placeCount (t.port p).rxFifo ≤ placeCount (s.port p).rxFifo)
    (hmarks : markCount (t.port p).rxFifo ≤ markCount (s.port p).rxFifo)
    (hgate : (t.stream (rxOf p)).gateOpen = true → (s.stream (rxOf p)).gateOpen = true) : FifosKept p s t :=
  ⟨htx, fun ⟨h1, h2, h3⟩ => ⟨Nat.le_trans hplaces h1, Nat.le_trans hmarks h2, fun hg => Nat.le_trans hmarks (h3 (hgate hg))⟩⟩

theorem Steady.refl (p : Fin 4) (s : State) : Steady p s s := ⟨fun _ => rfl, .refl p s⟩

theorem Steady.trans (h : Steady p s t) (h' : Steady p t u) : Steady p s u :=
  ⟨fun m => (h'.state m).trans (h.state m), h.fifos.trans h'.fifos⟩

theorem Steady.after (h' : Steady p t u) (h : Steady p s t) : Steady p s u := h.trans h'

theorem Steady.ite {c : Prop} [Decidable c] (h : Steady p s t) (h' : Steady p s u) : Steady p s (if c then t else u) := by
  split
  · exact h
  · exact h'

/-! ### The updates a chain is made of -/

theorem setStream_state {n : Fin 8} {e : StreamEntry} (h : e.state = (s.stream n).state) (m : Fin 8) :
    ((s.setStream n e).stream m).state = (s.stream m).state := by
  by_cases hm : m = n
  · rw [hm, setStream_stream_same, h]
  · rw [setStream_stream_other s n m e hm]

theorem setStream_gateOpen {n : Fin 8} {e : StreamEntry} (h : e.gateOpen = true → (s.stream n).gateOpen = true) (m : Fin 8) :
    ((s.setStream n e).stream m).gateOpen = true → (s.stream m).gateOpen = true := by
  by_cases hm : m = n
  · rw [hm, setStream_stream_same]
    exact h
  · rw [setStream_stream_other s n m e hm]
    exact id

/-- A change of an entry that does not open its gate leaves the FIFOs bounded. -/
theorem fifosKept_setStream (p : Fin 4) {n : Fin 8} {e : StreamEntry} (h : e.gateOpen = true → (s.stream n).gateOpen = true) :
    FifosKept p s (s.setStream n e) :=
  .of_le (Nat.le_refl _) (Nat.le_refl _) (Nat.le_refl _) (setStream_gateOpen h _)

theorem steady_setStream (p : Fin 4) {n : Fin 8} {e : StreamEntry} (hstate : e.state = (s.stream n).state)
    (hgate : e.gateOpen = true → (s.stream n).gateOpen = true) : Steady p s (s.setStream n e) :=
  ⟨setStream_state hstate, fifosKept_setStream p hgate⟩

/-- A change of a port that adds to none of its FIFOs. -/
theorem steady_setPort {e : PortEntry} (htx : e.txFifo.length ≤ (s.port p).txFifo.length)
    (hplaces : placeCount e.rxFifo ≤ placeCount (s.port p).rxFifo)
    (hmarks : markCount e.rxFifo ≤ markCount (s.port p).rxFifo) : Steady p s (s.setPort p e) :=
  ⟨fun _ => rfl, .of_le (by simpa using htx) (by simpa using hplaces) (by simpa using hmarks) id⟩

/-- A change of a port that leaves its FIFOs. -/
theorem steady_setPort_of_eq {e : PortEntry} (htx : e.txFifo = (s.port p).txFifo) (hrx : e.rxFifo = (s.port p).rxFifo) :
    Steady p s (s.setPort p e) :=
  steady_setPort (Nat.le_of_eq (by rw [htx])) (Nat.le_of_eq (by rw [hrx])) (Nat.le_of_eq (by rw [hrx]))

theorem steady_setDetector (e : DetectorEntry) (s : State) : Steady p s (s.setDetector p e) :=
  ⟨fun _ => rfl, Nat.le_refl _, id⟩

theorem steady_raise (p : Fin 4) (s : State) (e : Event) : Steady p s (s.raise e) := ⟨fun _ => rfl, Nat.le_refl _, id⟩

theorem steady_setUse (p : Fin 4) (s : State) (u : PortUse) : Steady p s (s.setUse u) := ⟨fun _ => rfl, Nat.le_refl _, id⟩

theorem steady_raiseStreamAt (p : Fin 4) (s : State) (n : Fin 8) (enabled : Enables → Bool) (tag : Tag) (kind : EventKind)
    (a b c : Word) : Steady p s (s.raiseStreamAt n enabled tag kind a b c) := by
  obtain h | ⟨e, h⟩ := raiseStreamAt_cases s n enabled tag kind a b c <;> rw [h]
  · exact .refl p s
  · exact steady_raise p s e

theorem steady_raiseStream (p : Fin 4) (s : State) (n : Fin 8) (enabled : Enables → Bool) (kind : EventKind) (a b c : Word) :
    Steady p s (s.raiseStream n enabled kind a b c) :=
  steady_raiseStreamAt ..

theorem steady_occur (p : Fin 4) (s : State) (n : Fin 8) (f : StreamFault) (index : Nat) : Steady p s (s.occur n f index) := by
  have hset : Steady p s (s.setStream n ((s.stream n).occurred f)) := steady_setStream p rfl id
  exact .ite (.refl p s) (.ite hset (hset.trans (steady_raiseStream ..)))

/-! ### Marks, the gate and the run limit -/

theorem markCount_append (f g : List RxEntry) : markCount (f ++ g) = markCount f + markCount g := List.countP_append

theorem placeCount_append (f g : List RxEntry) : placeCount (f ++ g) = placeCount f + placeCount g := List.countP_append

theorem markCount_mark (kind : MarkKind) (tag : Tag) (f : List RxEntry) : markCount (.mark kind tag :: f) = markCount f + 1 :=
  List.countP_cons_of_pos rfl

theorem placeCount_mark (kind : MarkKind) (tag : Tag) (f : List RxEntry) : placeCount (.mark kind tag :: f) = placeCount f :=
  List.countP_cons_of_neg (by simp [RxEntry.isPlace])

theorem placeCount_append_mark (f : List RxEntry) (kind : MarkKind) (tag : Tag) :
    placeCount (f ++ [.mark kind tag]) = placeCount f := by
  rw [placeCount_append, placeCount_mark]
  rfl

theorem markCount_append_mark (f : List RxEntry) (kind : MarkKind) (tag : Tag) :
    markCount (f ++ [.mark kind tag]) = markCount f + 1 := by
  rw [markCount_append, markCount_mark]
  rfl

/-- The END mark takes the room an open gate has kept for it (R102, R120). -/
theorem steady_endMark (s : State) (h : (s.stream (rxOf p)).gateOpen = true) : Steady p s (s.endMark p) := by
  have hfifo : ((s.endMark p).port p).rxFifo = (s.port p).rxFifo ++ [.mark .segEnd s.time.counter] := by
    simp [State.endMark, State.placeMark]
  refine ⟨setStream_state rfl, by simp [State.endMark, State.placeMark], fun ⟨hplaces, _, hgate⟩ => ⟨?_, ?_, ?_⟩⟩
  · rw [hfifo, placeCount_append_mark]
    exact hplaces
  · rw [hfifo, markCount_append_mark]
    exact Nat.succ_le_succ (hgate h)
  · simp [State.endMark]

theorem steady_closeGate (p : Fin 4) (s : State) : Steady p s (s.closeGate p) := by
  simp only [State.closeGate]
  split
  · next h => exact steady_endMark s (Bool.and_eq_true .. ▸ h).2
  · exact .refl p s

theorem steady_closeSegment (p : Fin 4) (s : State) (tag : Tag) : Steady p s (s.closeSegment p tag) :=
  .after (steady_setStream p rfl id) (steady_raiseStreamAt ..)

theorem steady_openSegment (p : Fin 4) (s : State) (tag : Tag) : Steady p s (s.openSegment p tag) :=
  .after (steady_setStream p rfl id) (steady_raiseStreamAt ..)

theorem steady_processMark (p : Fin 4) (s : State) (kind : MarkKind) (tag : Tag) : Steady p s (s.processMark p kind tag) := by
  cases kind with
  | segStart => exact steady_openSegment p s tag
  | segEnd => exact steady_closeSegment p s tag

theorem processMark_port (p q : Fin 4) (s : State) (kind : MarkKind) (tag : Tag) :
    (s.processMark p kind tag).port q = s.port q := by
  cases kind <;> simp [State.processMark, State.port]

theorem steady_processHead (p : Fin 4) (f : List RxEntry) (s : State) (hf : (s.port p).rxFifo = f) :
    Steady p s (State.processHead p f s) := by
  induction f generalizing s with
  | nil => exact .refl p s
  | cons x f ih =>
    cases x with
    | mark kind tag =>
      have hleft : Steady p s (s.setPort p { s.port p with rxFifo := f }) := by
        refine steady_setPort (Nat.le_refl _) ?_ ?_
        · exact Nat.le_of_eq (by rw [hf, placeCount_mark])
        · rw [hf, markCount_mark]
          exact Nat.le_succ _
      exact (hleft.trans (steady_processMark ..)).trans (ih _ (by rw [processMark_port, setPort_port_same]))
    | _ => exact .refl p s

theorem steady_processMarks (p : Fin 4) (s : State) : Steady p s (s.processMarks p) := by
  simp only [State.processMarks]
  split
  · exact .ite (.refl p s) (steady_processHead p _ s rfl)
  · exact .ite (.refl p s) (steady_processHead p _ s rfl)
  · exact .refl p s

theorem steady_checkLimit {n : Fin 8} (hn : portOf n = p) (s : State) : Steady p s (s.checkLimit n) := by
  simp only [State.checkLimit]
  split
  · exact .refl p s
  · refine .ite ?_ (.refl p s)
    split
    · exact .after (steady_raiseStream ..) (steady_setStream p rfl id)
    · have hset : Steady p s (s.setStream n { s.stream n with limitReached := true }) := steady_setStream p rfl id
      exact .ite hset (hset.trans (hn ▸ steady_closeGate (portOf n) _))

/-! ### Frames and slots -/

theorem placeCount_padReserved (idle : Word) (f : List RxEntry) : placeCount (padReserved idle f) = placeCount f := by
  induction f with
  | nil => rfl
  | cons x f ih => cases x <;> simp_all [padReserved, placeCount, List.countP_cons, RxEntry.isPlace]

theorem markCount_padReserved (idle : Word) (f : List RxEntry) : markCount (padReserved idle f) = markCount f := by
  induction f with
  | nil => rfl
  | cons x f ih => cases x <;> simp_all [padReserved, markCount, List.countP_cons, RxEntry.isMark]

theorem placeCount_fillReserved (w : Word) (f : List RxEntry) : placeCount (fillReserved w f) = placeCount f := by
  induction f with
  | nil => rfl
  | cons x f ih => cases x <;> simp_all [fillReserved, placeCount, List.countP_cons, RxEntry.isPlace]

theorem markCount_fillReserved (w : Word) (f : List RxEntry) : markCount (fillReserved w f) = markCount f := by
  induction f with
  | nil => rfl
  | cons x f ih => cases x <;> simp_all [fillReserved, markCount, List.countP_cons, RxEntry.isMark]

theorem placeCount_reservedFrom (c n : Nat) : placeCount (reservedFrom c n) = n := by
  induction n generalizing c with
  | zero => rfl
  | succ n ih => simp only [reservedFrom, placeCount] at ih ⊢; rw [List.countP_cons_of_pos rfl, ih]

theorem markCount_reservedFrom (c n : Nat) : markCount (reservedFrom c n) = 0 := by
  induction n generalizing c with
  | zero => rfl
  | succ n ih =>
    simp only [reservedFrom, markCount] at ih ⊢
    rw [List.countP_cons_of_neg (by simp [RxEntry.isMark]), ih]

theorem steady_frameFault (p : Fin 4) (s : State) (index : Nat) : Steady p s (s.frameFault p index) :=
  (steady_occur p s (txOf p) .frame index).trans (steady_occur p _ (rxOf p) .frame index)

theorem steady_pad (p : Fin 4) (s : State) : Steady p s (s.pad p) :=
  .ite (steady_setPort (Nat.le_refl _) (Nat.le_of_eq (placeCount_padReserved ..)) (Nat.le_of_eq (markCount_padReserved ..))) (.refl p s)

theorem steady_realign (p : Fin 4) (s : State) : Steady p s (s.realign p) := by
  simp only [State.realign]
  split
  · have hdrop : ∀ e (k : Nat), e.state = (s.stream (txOf p)).state → e.gateOpen = (s.stream (txOf p)).gateOpen →
        Steady p s ((s.setStream (txOf p) e).setPort p { s.port p with txFifo := (s.port p).txFifo.drop k }) :=
      fun e k hstate hgate => .after (steady_setPort (by simp) (Nat.le_refl _) (Nat.le_refl _))
        (steady_setStream p hstate (hgate ▸ id))
    refine .ite (hdrop _ _ rfl rfl) (.after (steady_setPort ?_ ?_ ?_) (.after (steady_setStream p ?_ ?_) (hdrop _ _ rfl rfl)))
    all_goals simp
  · exact .refl p s

theorem steady_endFrame (p : Fin 4) (s : State) (d : PortDef) (position : Nat) : Steady p s (s.endFrame p d position) :=
  .ite (((steady_frameFault ..).trans (steady_pad ..)).trans (steady_realign ..)) (.ite (steady_frameFault ..) (.refl p s))

theorem steady_beginFrame (p : Fin 4) (s : State) : Steady p s (s.beginFrame p) := steady_setPort_of_eq rfl rfl

/-- A frame is admitted when there is room for its places (R99, R101). -/
theorem steady_admitFrame (s : State) (h : placeCount (s.port p).rxFifo + s.channels p ≤ 32) : Steady p s (s.admitFrame p) := by
  have hroom : Steady p s (s.setPort p
      { s.port p with rxFifo := (s.port p).rxFifo ++ reservedFrom 0 (s.channels p), admitted := true }) := by
    refine ⟨fun _ => rfl, by simp, fun ⟨_, hmarks, hgate⟩ => ?_⟩
    simp only [RxBounded, setPort_port_same, setPort_stream, placeCount_append, placeCount_reservedFrom, markCount_append,
      markCount_reservedFrom, Nat.add_zero]
    exact ⟨h, hmarks, hgate⟩
  exact .after (steady_checkLimit (portOf_rxOf p) _) (.after (steady_setStream p rfl id) hroom)

theorem steady_admission (p : Fin 4) (s : State) : Steady p s (s.admission p) := by
  simp only [State.admission]
  refine .ite (.ite (.refl p s) ?_) (.refl p s)
  split
  · exact steady_occur ..
  · next hroom => exact .ite (steady_occur ..) (steady_admitFrame s (Nat.not_lt.1 hroom))

theorem steady_raiseSignal (p : Fin 4) (s : State) (old new : DetectorState) (peak : Nat) :
    Steady p s (s.raiseSignal p old new peak) :=
  .ite (steady_raiseStream ..) (.ite (steady_raiseStream ..) (.ite (steady_raiseStream ..) (.refl p s)))

/-- With at most six marks the START mark leaves room for the END mark (R102, R119). -/
theorem steady_askStart (p : Fin 4) (s : State) : Steady p s (s.askStart p) := by
  simp only [State.askStart]
  split
  · next h =>
    obtain ⟨-, -, hroom⟩ := h
    have hsix : markCount (s.port p).rxFifo ≤ 6 := hroom
    refine ⟨setStream_state rfl, by simp [State.placeMark], fun ⟨hplaces, _, _⟩ => ?_⟩
    simp only [RxBounded, State.placeMark, setStream_port, setPort_port_same, placeCount_append_mark, markCount_append_mark]
    exact ⟨hplaces, by omega, fun _ => by omega⟩
  · exact .refl p s

theorem steady_moveGate (p : Fin 4) (s : State) (old new : DetectorState) : Steady p s (s.moveGate p old new) :=
  .ite (.ite (steady_askStart p s) (.ite (steady_closeGate p s) (.refl p s))) (.refl p s)

theorem steady_frameEnd (p : Fin 4) (s : State) : Steady p s (s.frameEnd p) := by
  simp only [State.frameEnd]
  split
  · exact .refl p s
  · exact .ite (.after (steady_moveGate ..) (.after (steady_raiseSignal ..) (steady_setDetector _ s))) (steady_setDetector _ s)

theorem steady_sendWord (p : Fin 4) (s : State) (w : Word) : Steady p s (s.sendWord p w) := steady_setPort_of_eq rfl rfl

theorem steady_takeWord {c : Nat} {w : Word} {rest : List Word} (h : (s.port p).txFifo = w :: rest) :
    Steady p s (s.takeWord p c w rest) :=
  .after (steady_setPort (by simp [h]) (Nat.le_refl _) (Nat.le_refl _)) (steady_setStream p rfl id)

theorem steady_beginUnderrun (p : Fin 4) (s : State) (c : Nat) : Steady p s (s.beginUnderrun p c) := by
  have hport : Steady p s (s.setPort p { s.port p with tx := .waiting, slotWord := (s.stream (txOf p)).replayOf c }) :=
    steady_setPort_of_eq rfl rfl
  exact .after (steady_occur p _ (txOf p) .underrun c) (.ite (.after (steady_setStream p rfl id) hport) hport)

theorem steady_resumeTaking {c : Nat} {w : Word} {rest : List Word} (h : (s.port p).txFifo = w :: rest) :
    Steady p s (s.resumeTaking p c w rest) :=
  .after (steady_takeWord (by simp [h])) (.after (steady_setPort_of_eq rfl rfl) (steady_setStream p rfl id))

theorem steady_transmitSlot (p : Fin 4) (s : State) (c : Nat) : Steady p s (s.transmitSlot p c) := by
  simp only [State.transmitSlot]
  refine .ite (steady_sendWord ..) ?_
  split
  · split
    · next hfifo => exact steady_takeWord hfifo
    · exact steady_beginUnderrun ..
  · refine .ite ((steady_sendWord ..).trans (steady_occur p _ (txOf p) .underrun c)) ?_
    split
    · next hfifo => exact .ite (steady_resumeTaking hfifo) (steady_sendWord ..)
    · exact steady_sendWord ..

theorem steady_enterSlot (p : Fin 4) (s : State) (c pos : Nat) : Steady p s (s.enterSlot p c pos) :=
  steady_setPort_of_eq rfl rfl

theorem steady_throwOutTx (p : Fin 4) (s : State) : Steady p s (s.throwOutTx p) :=
  .after (steady_setPort (by simp) (Nat.le_refl _) (Nat.le_refl _)) (steady_setStream p rfl id)

theorem steady_throwOutRx (p : Fin 4) (s : State) : Steady p s (s.throwOutRx p) :=
  .after (steady_setPort (Nat.le_refl _) (Nat.zero_le _) (Nat.zero_le _)) (steady_setStream p rfl id)

theorem steady_closeOpenSegment (p : Fin 4) (s : State) : Steady p s (s.closeOpenSegment p) :=
  .ite (steady_closeSegment ..) (.refl p s)

theorem steady_countDeposit (p : Fin 4) (s : State) : Steady p s (s.countDeposit p) := by
  simp only [State.countDeposit]
  split
  iterate 2 exact steady_setStream p rfl id
  all_goals exact .refl p s

theorem steady_shutGate (p : Fin 4) (s : State) (n : Fin 8) : Steady p s (s.setStream n { s.stream n with gateOpen := false }) :=
  steady_setStream p rfl (by simp)

/-! ### The table of the life cycle -/

theorem lifeCycle_refl (x : StreamState) : LifeCycle x x := by cases x <;> simp [LifeCycle]

/-- Every state ends in IDLE, or in ABSENT. -/
theorem lifeCycle_idle (x : StreamState) : LifeCycle x .idle := by cases x <;> simp [LifeCycle]

theorem lifeCycle_absent (x : StreamState) : LifeCycle x .absent := by cases x <;> simp [LifeCycle]

/-- Every stream goes along its life cycle, or stays. -/
structure LifeCycles (s t : State) : Prop where
  edge : ∀ n, LifeCycle (s.stream n).state (t.stream n).state

theorem lifeCycles_refl (s : State) : LifeCycles s s := ⟨fun _ => lifeCycle_refl _⟩

theorem lifeCycles_of_eq (h : ∀ m, (t.stream m).state = (s.stream m).state) : LifeCycles s t :=
  ⟨fun m => h m ▸ lifeCycle_refl _⟩

theorem lifeCycles_of_streams (h : t.streams = s.streams) : LifeCycles s t :=
  lifeCycles_of_eq fun m => by rw [State.stream, State.stream, h]

/-- Steady work before and after a move does not count. -/
theorem LifeCycles.of_steady_left (h' : LifeCycles t u) (h : ∀ m, (t.stream m).state = (s.stream m).state) : LifeCycles s u :=
  ⟨fun m => h m ▸ h'.edge m⟩

theorem LifeCycles.of_steady_right (h : LifeCycles s t) (h' : ∀ m, (u.stream m).state = (t.stream m).state) : LifeCycles s u :=
  ⟨fun m => h' m ▸ h.edge m⟩

/-- One stream goes along an edge. -/
theorem lifeCycles_setStream {n : Fin 8} {e : StreamEntry} (h : LifeCycle (s.stream n).state e.state) :
    LifeCycles s (s.setStream n e) := by
  refine ⟨fun m => ?_⟩
  by_cases hm : m = n
  · rw [hm, setStream_stream_same]
    exact h
  · rw [setStream_stream_other s n m e hm]
    exact lifeCycle_refl _

theorem endRun_state (s : State) (n m : Fin 8) (why : EndReason) :
    ((s.endRun n why).stream m).state = if m = n then .idle else (s.stream m).state := by
  rw [endRun_stream]
  split <;> rfl

theorem lifeCycles_endRun (s : State) (n : Fin 8) (why : EndReason) : LifeCycles s (s.endRun n why) := by
  refine ⟨fun m => ?_⟩
  rw [endRun_state]
  split
  · exact lifeCycle_idle _
  · exact lifeCycle_refl _

theorem startRunning_state (s : State) (n m : Fin 8) :
    ((s.startRunning n).stream m).state = if m = n then .running else (s.stream m).state := by
  rw [State.startRunning, (steady_raiseStream 0 _ _ _ _ _ _ _).state]
  split
  · next h => rw [h, setStream_stream_same]
  · next h => rw [setStream_stream_other _ _ _ _ h]

theorem lifeCycles_startRunning {n : Fin 8} (h : (s.stream n).state = .pending) : LifeCycles s (s.startRunning n) := by
  refine ⟨fun m => ?_⟩
  rw [startRunning_state]
  split
  · next hm => rw [hm, h]; simp [LifeCycle]
  · exact lifeCycle_refl _

theorem lifeCycles_cutRun (s : State) (n : Fin 8) (why : EndReason) : LifeCycles s (s.cutRun n why) := by
  simp only [State.cutRun]
  split
  · exact (lifeCycles_endRun ..).of_steady_left (steady_throwOutTx ..).state
  · exact (lifeCycles_endRun ..).of_steady_left
      (((steady_throwOutRx ..).trans (steady_closeOpenSegment ..)).trans (steady_shutGate ..)).state

/-- Only the transmit stream of the port moves, along an edge (R55, R57, R64). -/
theorem boundaryTx_lifeCycles (p : Fin 4) (s : State) :
    LifeCycles s (s.boundaryTx p) ∧ ∀ m, m ≠ txOf p → ((s.boundaryTx p).stream m).state = (s.stream m).state := by
  simp only [State.boundaryTx]
  split
  · next h => exact ⟨lifeCycles_startRunning h, fun m hm => by rw [startRunning_state, if_neg hm]⟩
  · refine ⟨(lifeCycles_endRun ..).of_steady_left (steady_throwOutTx ..).state, fun m hm => ?_⟩
    rw [endRun_state, if_neg hm, (steady_throwOutTx ..).state]
  · split
    · exact ⟨lifeCycles_endRun .., fun m hm => by rw [endRun_state, if_neg hm]⟩
    · exact ⟨lifeCycles_refl s, fun _ _ => rfl⟩
  all_goals exact ⟨lifeCycles_refl s, fun _ _ => rfl⟩

/-- Only the receive stream of the port moves, along an edge (R55). -/
theorem boundaryRx_lifeCycles (p : Fin 4) (s : State) :
    LifeCycles s (s.boundaryRx p) ∧ ∀ m, m ≠ rxOf p → ((s.boundaryRx p).stream m).state = (s.stream m).state := by
  simp only [State.boundaryRx]
  split
  · next h => exact ⟨lifeCycles_startRunning h, fun m hm => by rw [startRunning_state, if_neg hm]⟩
  all_goals exact ⟨lifeCycles_refl s, fun _ _ => rfl⟩

/-- The two streams of a port move one after the other, each along its own edge. -/
theorem lifeCycles_takeBoundary (p : Fin 4) (s : State) : LifeCycles s (s.takeBoundary p) := by
  have hbegin := (steady_beginFrame p s).state
  obtain ⟨htx, htx'⟩ := boundaryTx_lifeCycles p (s.beginFrame p)
  obtain ⟨hrx, hrx'⟩ := boundaryRx_lifeCycles p ((s.beginFrame p).boundaryTx p)
  have hmoved : LifeCycles s (((s.beginFrame p).boundaryTx p).boundaryRx p) := by
    refine ⟨fun m => ?_⟩
    by_cases hm : m = rxOf p
    · have hstay := htx' m (hm ▸ (txOf_ne_rxOf p p).symm)
      rw [hbegin m] at hstay
      exact hstay ▸ hrx.edge m
    · rw [hrx' m hm, ← hbegin m]
      exact htx.edge m
  have hadm := hmoved.of_steady_right (steady_admission p _).state
  refine LifeCycles.of_steady_right ?_ (steady_processMarks p _).state
  split
  · exact hadm.of_steady_right (steady_frameEnd p _).state
  · exact hadm

theorem lifeCycles_boundaryAt (p : Fin 4) (s : State) (d : PortDef) (position : Nat) :
    LifeCycles s (s.boundaryAt p d position) := by
  simp only [State.boundaryAt]
  split
  · split
    · exact (lifeCycles_takeBoundary ..).of_steady_left (steady_endFrame ..).state
    all_goals exact lifeCycles_takeBoundary ..
  · exact lifeCycles_refl s

/-! ### Commands -/

theorem lifeCycles_stopRx (h : (s.stream (rxOf p)).state = .running) : LifeCycles s (s.stopRx p) := by
  have hstop : LifeCycles s (s.setStream (rxOf p) (s.stream (rxOf p)).toStopping) :=
    lifeCycles_setStream (by rw [h]; simp [LifeCycle, StreamEntry.toStopping])
  have hmarks := (hstop.of_steady_right (steady_closeGate p _).state).of_steady_right (steady_processMarks p _).state
  simp only [State.stopRx]
  split
  · refine ⟨fun m => ?_⟩
    rw [endRun_state]
    split
    · exact lifeCycle_idle _
    · exact hmarks.edge m
  · exact hmarks

theorem lifeCycles_stopStream (s : State) (n : Fin 8) : LifeCycles s (s.stopStream n) := by
  simp only [State.stopStream]
  split
  iterate 3 exact lifeCycles_refl s
  · exact lifeCycles_endRun ..
  · split
    · exact (lifeCycles_endRun ..).of_steady_left (steady_throwOutTx ..).state
    · exact lifeCycles_endRun ..
  · next h =>
    split
    · exact lifeCycles_setStream (by rw [h]; simp [LifeCycle, StreamEntry.toStopping])
    · next htx =>
      refine lifeCycles_stopRx ?_
      rw [rxOf_portOf (Bool.eq_false_iff.2 htx)]
      exact h

theorem lifeCycles_abortStream (s : State) (n : Fin 8) (why : EndReason) : LifeCycles s (s.abortStream n why) := by
  simp only [State.abortStream]
  split
  · exact lifeCycles_cutRun s n why
  · exact lifeCycles_refl s

theorem lifeCycles_beginRun {n : Fin 8} (h : (s.stream n).state = .idle) (d : StreamDef) (armed : Bool) :
    LifeCycles s (s.beginRun n d armed) := by
  refine ⟨fun m => ?_⟩
  rw [beginRun_stream]
  split
  · next hm =>
    rw [hm, h]
    cases armed <;> simp [LifeCycle, StreamEntry.begun]
  · exact lifeCycle_refl _

end Chain

/-! ### APPLY and RESET PART -/

/-- Every stream stays in its state, or is IDLE or ABSENT now. -/
def StaysOrRests (s t : State) : Prop :=
  ∀ m, (t.stream m).state = (s.stream m).state ∨ (t.stream m).state = .idle ∨ (t.stream m).state = .absent

theorem staysOrRests_refl (s : State) : StaysOrRests s s := fun _ => .inl rfl

theorem staysOrRests_trans (s t u : State) (h : StaysOrRests s t) (h' : StaysOrRests t u) : StaysOrRests s u := fun m => by
  obtain hm | hm := h' m
  · rw [hm]
    exact h m
  · exact .inr hm

theorem lifeCycles_of_staysOrRests {s t : State} (h : StaysOrRests s t) : LifeCycles s t := ⟨fun m => by
  obtain hm | hm | hm := h m <;> rw [hm]
  · exact lifeCycle_refl _
  · exact lifeCycle_idle _
  · exact lifeCycle_absent _⟩

theorem staysOrRests_of_streams {s t : State} (h : t.streams = s.streams) : StaysOrRests s t :=
  fun m => .inl (by rw [State.stream, State.stream, h])

theorem fresh_state (d : Option StreamDef) (idle : Word) :
    (StreamEntry.fresh d idle).state = .idle ∨ (StreamEntry.fresh d idle).state = .absent := by
  cases d
  · exact .inr rfl
  · exact .inl rfl

theorem emptyFifo_streams (s : State) (n : Fin 8) : (s.emptyFifo n).streams = s.streams := by
  simp only [State.emptyFifo]
  split <;> rfl

theorem rejudgeHeld_streams (s : State) (n : Fin 8) : (s.rejudgeHeld n).streams = s.streams := by
  obtain h | ⟨ph, h⟩ := rejudgeHeld_cases s n <;> rw [h]
  rfl

theorem applyStream_streams (s : State) (n : Fin 8) :
    (s.applyStream n).streams =
      s.streams.set n.val (StreamEntry.fresh s.cmd.staged.streams[n.val] (s.idleWord (portOf n))) := by
  simp only [State.applyStream, rejudgeHeld_streams]
  split <;> simp [emptyFifo_streams, State.setStream, State.quietDetector]

/-- APPLY sets a named stream afresh from its staged copy (R52). -/
theorem applyStream_stream (s : State) (n m : Fin 8) :
    (s.applyStream n).stream m =
      if m = n then StreamEntry.fresh s.cmd.staged.streams[n.val] (s.idleWord (portOf n)) else s.stream m := by
  have hset : (s.applyStream n).stream m =
      (s.setStream n (StreamEntry.fresh s.cmd.staged.streams[n.val] (s.idleWord (portOf n)))).stream m := by
    rw [State.stream, State.stream]
    simp only [applyStream_streams]
    rfl
  rw [hset]
  split
  · next h => rw [h, setStream_stream_same]
  · next h => rw [setStream_stream_other _ _ _ _ h]

theorem staysOrRests_applyStream (s : State) (n : Fin 8) : StaysOrRests s (s.applyStream n) := fun m => by
  rw [applyStream_stream]
  split
  · exact .inr (fresh_state ..)
  · exact .inl rfl

theorem staysOrRests_applyAll (s : State) (o : ObjectSet) : StaysOrRests s (s.applyAll o) := by
  have hfold := fun {α : Type} {f : State → α → State} (hf : ∀ s a, StaysOrRests s (f s a)) =>
    foldl_rel staysOrRests_refl staysOrRests_trans hf
  exact staysOrRests_trans _ _ _ (staysOrRests_trans _ _ _ (staysOrRests_trans _ _ _
    (hfold (f := State.applyPort) (fun _ _ => staysOrRests_of_streams rfl) _ _)
    (hfold staysOrRests_applyStream _ _))
    (hfold (f := State.applyDetector) (fun _ _ => staysOrRests_of_streams rfl) _ _))
    (hfold (f := State.applyWatch) (fun _ _ => staysOrRests_of_streams rfl) _ _)

theorem passThrough_streams (s : State) : s.passThrough.streams = s.streams := by
  simp only [State.passThrough]
  split <;> rfl

/-- After RESET PART every stream is ABSENT (R186). -/
theorem softReset_state (s : State) (m : Fin 8) : (s.softReset.stream m).state = .absent := by
  have hreset : s.softReset.streams = State.reset.streams := by rw [State.softReset, passThrough_streams]; rfl
  simp only [State.stream, hreset, State.reset, Vector.getElem_replicate]
  rfl

theorem CommandEffect.lifeCycles {i : Instr} {s t : State} (h : CommandEffect i s t) : LifeCycles s t := by
  cases h with
  | apply o _ => exact lifeCycles_of_staysOrRests (staysOrRests_applyAll s o)
  | start n d armed hidle _ => exact lifeCycles_beginRun hidle d armed
  | stop n => exact lifeCycles_stopStream s n
  | abort n => exact lifeCycles_abortStream s n .aborted
  | entry n e _ hstate _ => exact lifeCycles_of_eq (setStream_state hstate)
  | resetPart => exact lifeCycles_of_staysOrRests fun m => .inr (.inr (softReset_state s m))
  | nothing => exact lifeCycles_refl s
  | _ => exact lifeCycles_of_streams rfl

/-! ### Every command -/

theorem lifeCycles_commandRows {i : Instr} (hi : i ∈ commandRows) : Leads LifeCycles (exec i) :=
  leads_command lifeCycles_refl hi fun _ _ _ _ _ _ heffect => ⟨heffect.lifeCycles.edge⟩

theorem startFetch_streams (s : State) : s.startFetch.streams = s.streams := by
  simp only [State.startFetch]
  split
  · rfl
  · split <;> rfl

theorem startDeposit_streams (s : State) : s.startDeposit.streams = s.streams := by
  simp only [State.startDeposit]
  split
  · rfl
  · split <;> rfl

theorem startRecord_streams (s : State) : s.startRecord.streams = s.streams := by
  simp only [State.startRecord]
  split
  · rfl
  · rfl
  all_goals split <;> rfl

theorem startCommand_streams (s : State) : s.startCommand.streams = s.streams := by
  simp only [State.startCommand]
  split <;> rfl

/-- A grant changes no stream's entry. -/
theorem grant_streams (s : State) : s.grant.streams = s.streams := by
  simp only [State.grant]
  split
  · rfl
  · split
    · next r _ =>
      cases r with
      | deposit => exact startDeposit_streams _
      | fetch => exact startFetch_streams _
      | record => exact startRecord_streams _
      | command => exact startCommand_streams _
    · rfl

theorem expire_state (s : State) (a : Access) (r : RingId) (slot : Nat) (m : Fin 8) :
    ((s.expire a r slot).stream m).state = (s.stream m).state := by
  simp only [State.expire]
  split
  · split
    · exact (steady_occur 0 ..).state m
    · rfl
    · rfl
  · split
    · exact (steady_occur 0 ..).state m
    all_goals rfl

theorem answer_state (s : State) (a : Access) (r : RingId) (slot w : Nat) (x : Answer) (m : Fin 8) :
    ((s.answer a r slot w x).stream m).state = (s.stream m).state := by
  cases x with
  | pass e => rfl
  | substitute w => rfl
  | hold =>
    simp only [State.answer]
    split
    · rfl
    · exact expire_state ..

theorem raiseHits_streams (s : State) (a : Access) (data : Word) (blocked : Bool) (hits : List (Fin 4)) :
    (s.raiseHits a data blocked hits).streams = s.streams :=
  foldl_rel (R := fun s t => t.streams = s.streams) (f := fun (s : State) (w : Fin 4) => s.raisePart .watchHit
    (BitVec.ofNat 8 w.val) (data &&& a.laneMask) (a.addr.extractLsb' 0 16) (if blocked then 1 else 0)) (fun _ => rfl)
    (fun _ _ _ h h' => h'.trans h) (fun _ _ => rfl) hits s

theorem watchWrite_streams (s : State) (a : Access) (data : Word) : (s.watchWrite a data).streams = s.streams := by
  simp only [State.watchWrite]
  split <;> exact raiseHits_streams ..

theorem takeAccess_state (s : State) (a : Access) (m : Fin 8) : ((s.takeAccess a).stream m).state = (s.stream m).state := by
  simp only [State.takeAccess]
  split
  · rfl
  · split
    · rfl
    · exact answer_state ..
    · split
      · rfl
      · rw [State.stream, State.stream, watchWrite_streams]

theorem makeEffect_state (s : State) (e : Effect) (m : Fin 8) : ((s.makeEffect e).stream m).state = (s.stream m).state := by
  cases e with
  | none => rfl
  | post r => cases r <;> simp [State.makeEffect, State.stream]
  | consume r => rfl
  | order n slot => exact (steady_occur 0 ..).state m

theorem steady_joinTx_state (s : State) (p : Fin 4) (w : Word) (m : Fin 8) :
    ((s.joinTx p w).stream m).state = (s.stream m).state := by
  simp only [State.joinTx]
  split
  iterate 3
    rw [(steady_checkLimit (portOf_txOf p) _).state, setPort_stream]
    refine setStream_state ?_ m
    rfl
  all_goals rfl

theorem fetchWord_state (s : State) (b : FetchBurst) (a : Addr) (m : Fin 8) :
    ((s.fetchWord b a).stream m).state = (s.stream m).state := by
  have hreleased : ∀ (u : State) r slot, ((u.releaseAt r slot).stream m).state = (u.stream m).state := fun u r slot => by
    simp [State.stream]
  simp only [State.fetchWord]
  split
  · split
    · rw [steady_joinTx_state, hreleased]
      rfl
    · rw [hreleased]
      rfl
  · rfl

theorem depositWord_state (s : State) (b : DepositBurst) (a : Addr) (w : Word) (m : Fin 8) :
    ((s.depositWord b a w).stream m).state = (s.stream m).state := by
  have hreleased : ∀ (u : State) r slot, ((u.releaseAt r slot).stream m).state = (u.stream m).state := fun u r slot => by
    simp [State.stream]
  simp only [State.depositWord]
  split
  · rw [(steady_processMarks b.port _).state]
    split
    · rw [(steady_countDeposit b.port _).state, hreleased]
      rfl
    · rw [hreleased]
      rfl
  · rfl

theorem triggered_state (e : StreamEntry) : LifeCycle e.state e.triggered.state := by
  rw [triggered_eq]
  split
  · next h => rw [h]; simp [LifeCycle]
  · exact lifeCycle_refl _

theorem lifeCycles_triggered {s t : State} (h : t.streams = map8 StreamEntry.triggered s.streams) : LifeCycles s t :=
  ⟨fun m => by rw [stream_of_map8 h m]; exact triggered_state _⟩

theorem cleared_state (s : State) (start : StartUp) (m : Fin 8) : ((s.cleared start).stream m).state = .absent := by
  simp only [State.stream, State.cleared, State.reset, Vector.getElem_replicate]
  rfl

theorem lifeCycles_starvation (p : Fin 4) : Leads LifeCycles (exec (.starvationExpiry p)) := by
  refine leads_whenLive lifeCycles_refl fun s _ => ?_
  dsimp only
  split
  · next h _ => exact lifeCycles_setStream (by rw [h]; simp [LifeCycle])
  · exact lifeCycles_refl s

theorem steady_lateFrame (p : Fin 4) : Leads (Steady p) (exec (.lateFrame p)) := by
  refine leads_whenLive (.refl p) fun s _ => ?_
  split
  · have hport : ∀ pos, Steady p s (s.setPort p { s.port p with framePos := some pos }) := fun _ =>
      steady_setPort_of_eq rfl rfl
    exact .ite (.ite (.after (steady_frameFault ..) (hport _)) (hport _)) (.refl p s)
  · exact .refl p s

theorem steady_channelSlotStart (p : Fin 4) : Leads (Steady p) (exec (.channelSlotStart p)) := by
  refine leads_whenLive (.refl p) fun s _ => ?_
  split
  · refine .ite ?_ (.refl p s)
    dsimp only
    split
    iterate 2 exact (steady_enterSlot ..).trans (steady_transmitSlot ..)
    all_goals exact (steady_enterSlot ..).trans (steady_sendWord ..)
  · exact .refl p s

theorem steady_rxChannelWordComplete (p : Fin 4) (sdi : Vector Bool 16) :
    Leads (Steady p) (exec (.rxChannelWordComplete p sdi)) := by
  refine leads_whenLive (.refl p) fun s _ => ?_
  split
  · have hport : ∀ e : PortEntry, e.txFifo = (s.port p).txFifo → ∀ w, e.rxFifo = (if (s.port p).admitted then
        fillReserved w (s.port p).rxFifo else (s.port p).rxFifo) → Steady p s (s.setPort p e) := fun e htx w hrx => by
      refine steady_setPort (Nat.le_of_eq (by rw [htx])) ?_ ?_ <;> rw [hrx] <;> split
      · exact Nat.le_of_eq (placeCount_fillReserved ..)
      · exact Nat.le_refl _
      · exact Nat.le_of_eq (markCount_fillReserved ..)
      · exact Nat.le_refl _
    exact .ite (.ite (.after (steady_setDetector ..) (hport _ rfl _ rfl)) (hport _ rfl _ rfl)) (.refl p s)
  · exact .refl p s

/-- Every command moves each stream along an edge, or not at all. -/
theorem exec_lifeCycles (i : Instr) : Leads LifeCycles (exec i) := by
  have hquiet : ∀ {f : State → State}, (∀ s, (f s).streams = s.streams) → Leads LifeCycles (whenLive f) := fun h =>
    leads_whenLive lifeCycles_refl fun s _ => lifeCycles_of_streams (h s)
  cases i with
  | accessArrival c =>
    intro s
    simp only [exec, execAccessArrival]
    split
    · exact ⟨s, rfl, lifeCycles_refl s⟩
    · split
      · split
        · exact ⟨_, rfl, lifeCycles_of_eq fun m => takeAccess_state _ _ m⟩
        · exact ⟨s, rfl, lifeCycles_refl s⟩
      · exact ⟨_, rfl, lifeCycles_of_streams (by simp)⟩
  | arbiterGrant =>
    refine hquiet fun s => ?_
    split
    · exact grant_streams s
    · rfl
  | passageComplete =>
    refine leads_whenLive lifeCycles_refl fun s _ => ?_
    split
    · refine lifeCycles_of_eq fun m => ?_
      rw [makeEffect_state]
      simp [State.stream]
    · exact lifeCycles_refl s
  | holdExpiry =>
    refine leads_whenLive lifeCycles_refl fun s _ => ?_
    split
    · exact lifeCycles_of_eq (expire_state s _ _ _)
    · exact lifeCycles_refl s
  | fetchWordComplete =>
    refine leads_whenLive lifeCycles_refl fun s _ => ?_
    split
    · split
      · exact lifeCycles_of_eq (fetchWord_state s _ _)
      · exact lifeCycles_of_streams rfl
    · exact lifeCycles_refl s
  | depositWordComplete =>
    refine leads_whenLive lifeCycles_refl fun s _ => ?_
    split
    · split
      · exact lifeCycles_of_eq (depositWord_state s _ _ _)
      · exact lifeCycles_of_streams rfl
    · exact lifeCycles_refl s
  | rxStoppingDrained p =>
    refine leads_whenLive lifeCycles_refl fun s _ => ?_
    split
    · exact lifeCycles_endRun ..
    · exact lifeCycles_refl s
  | rxRunComplete p =>
    refine leads_whenLive lifeCycles_refl fun s _ => ?_
    split
    · exact lifeCycles_endRun ..
    · exact lifeCycles_refl s
  | commandRecordRead => refine hquiet fun s => ?_; split <;> rfl
  | commandResultWritten =>
    refine hquiet fun s => ?_
    split
    · simp [State.afterResult, State.landBurst, apply_ite State.streams, State.requestIdentity]
    · rfl
  | eventRecordWritten => refine hquiet fun s => ?_; split <;> rfl
  | intPulseEnd => exact hquiet fun _ => rfl
  | identityFirstBurstComplete => refine hquiet fun s => ?_; split <;> rfl
  | identityBurstComplete =>
    refine hquiet fun s => ?_
    split
    · simp [State.raiseStarted, State.raisePart, State.landBurst]
    · rfl
  | frameBoundary p fsy =>
    refine leads_whenLive lifeCycles_refl fun s _ => ?_
    split
    · exact lifeCycles_refl s
    · split
      · exact lifeCycles_refl s
      · exact lifeCycles_boundaryAt ..
  | lateFrame p => exact (steady_lateFrame p).mono fun _ _ h => lifeCycles_of_eq h.state
  | channelSlotStart p => exact (steady_channelSlotStart p).mono fun _ _ h => lifeCycles_of_eq h.state
  | rxChannelWordComplete p sdi => exact (steady_rxChannelWordComplete p sdi).mono fun _ _ h => lifeCycles_of_eq h.state
  | starvationExpiry p => exact lifeCycles_starvation p
  | trigEdge =>
    refine leads_whenLive lifeCycles_refl fun s _ => ?_
    split
    · exact lifeCycles_refl s
    · exact lifeCycles_triggered rfl
  | tagclkEdge => refine hquiet fun s => ?_; split <;> rfl
  | internalTimeTagIncrease => refine hquiet fun s => ?_; split <;> rfl
  | rstFall =>
    intro s
    simp only [exec, execRstFall]
    split
    · exact ⟨s, rfl, lifeCycles_refl s⟩
    all_goals exact ⟨_, rfl, ⟨fun m => cleared_state _ _ m ▸ lifeCycle_absent _⟩⟩
  | rstRise b q =>
    intro s
    simp only [exec, execRstRise]
    split
    · exact ⟨_, rfl, ⟨fun m => cleared_state _ _ m ▸ lifeCycle_absent _⟩⟩
    all_goals exact ⟨s, rfl, lifeCycles_refl s⟩
  | pcsOrStrobesHigh =>
    intro s
    simp only [exec, execPcsOrStrobesHigh]
    split <;> exact ⟨_, rfl, lifeCycles_of_streams rfl⟩
  | _ => exact lifeCycles_commandRows (by simp [commandRows, commandTable])

theorem entry_tick_state (e : StreamEntry) : e.tick.state = e.state := by
  simp only [StreamEntry.tick]
  split <;> rfl

theorem tick_state (s : State) (m : Fin 8) : (s.tick.stream m).state = (s.stream m).state := by
  simp only [State.tick]
  split
  · rw [stream_of_map8 (s := s) rfl m, entry_tick_state]
  · rfl

end Sys2Proof.Machine

namespace Sys2Proof.Proofs

open Sys2Proof Sys2Proof.Machine Sys2Proof.Claims

/-- Settles O60: a microsecond moves no stream, and every command moves each along an edge of the table. -/
theorem streamsFollowTheirLifeCycle : Obligations.StreamsFollowTheirLifeCycle := by
  intro s t n hstep
  cases hp : s.pending with
  | nil =>
    rw [step_of_empty hp] at hstep
    cases hstep
    rw [tick_state]
    exact lifeCycle_refl _
  | cons c rest =>
    rw [step_of_front hp] at hstep
    exact ((exec_lifeCycles c).of_next hstep).edge n

end Sys2Proof.Proofs

/-! PROOF. The definitions, active and staged, stay in range (R145 to R147): the DEFINE commands take no other, APPLY activates what was
staged, a reset removes, and everything else leaves the definitions. -/

namespace Sys2Proof.Machine

open Sys2Proof Sys2Proof.Claims

/-- No definition is another one, active or staged. -/
structure DefsKept (s t : State) : Prop where
  streams : ∀ n, (t.stream n).active = (s.stream n).active
  ports : ∀ p, (t.port p).active = (s.port p).active
  detectors : ∀ p, (t.detector p).active = (s.detector p).active
  staged : t.cmd.staged = s.cmd.staged

section Chain

variable {s t u : State}

theorem DefsKept.refl (s : State) : DefsKept s s := ⟨fun _ => rfl, fun _ => rfl, fun _ => rfl, rfl⟩

theorem DefsKept.trans (h : DefsKept s t) (h' : DefsKept t u) : DefsKept s u :=
  ⟨fun n => (h'.streams n).trans (h.streams n), fun p => (h'.ports p).trans (h.ports p),
    fun p => (h'.detectors p).trans (h.detectors p), h'.staged.trans h.staged⟩

theorem DefsKept.after (h' : DefsKept t u) (h : DefsKept s t) : DefsKept s u := h.trans h'

/-- The tables of streams, ports and detectors stand. -/
theorem DefsKept.of_tables (hstreams : t.streams = s.streams) (hports : t.ports = s.ports) (hdetectors : t.detectors = s.detectors)
    (hstaged : t.cmd.staged = s.cmd.staged) : DefsKept s t :=
  ⟨fun _ => by rw [State.stream, State.stream, hstreams], fun _ => by rw [State.port, State.port, hports],
    fun _ => by rw [State.detector, State.detector, hdetectors], hstaged⟩

theorem DefsKept.of_portWork {p : Fin 4} (h : PortWork p s t) : DefsKept s t := by
  obtain ⟨-, -, -, -, -, -, hcmd, -, -, -, -⟩ := h.frame
  exact ⟨h.streamDef, h.portDef, h.detectorDef, by rw [hcmd]⟩

theorem definitionsInRange_of_kept (h : DefsKept s t) (hs : DefinitionsInRange s) : DefinitionsInRange t := by
  obtain ⟨hstreams, hports, hdetectors⟩ := hs
  refine ⟨fun n d hd => hstreams n d ?_, fun p d hd => hports p d ?_, fun p d hd => hdetectors p d ?_⟩
  · rwa [h.streams, h.staged] at hd
  · rwa [h.ports, h.staged] at hd
  · rwa [h.detectors, h.staged] at hd

/-! ### Commands -/

/-- Where every active definition is one that was active or is staged, and nothing new is staged, the definitions stay in range. -/
structure DefsFromStaged (s t : State) : Prop where
  streams : ∀ n d, (t.stream n).active = some d → (s.stream n).active = some d ∨ s.cmd.staged.streams[n.val] = some d
  ports : ∀ p d, (t.port p).active = some d → (s.port p).active = some d ∨ s.cmd.staged.ports[p.val] = some d
  detectors : ∀ p d, (t.detector p).active = some d → (s.detector p).active = some d ∨ s.cmd.staged.detectors[p.val] = some d
  staged : t.cmd.staged = s.cmd.staged

theorem DefsFromStaged.of_kept (h : DefsKept s t) : DefsFromStaged s t :=
  ⟨fun n _ hd => .inl ((h.streams n).symm.trans hd), fun p _ hd => .inl ((h.ports p).symm.trans hd),
    fun p _ hd => .inl ((h.detectors p).symm.trans hd), h.staged⟩

theorem defsFromStaged_refl (s : State) : DefsFromStaged s s := .of_kept (.refl s)

theorem defsFromStaged_trans (s t u : State) (h : DefsFromStaged s t) (h' : DefsFromStaged t u) : DefsFromStaged s u := by
  refine ⟨fun n d hd => ?_, fun p d hd => ?_, fun p d hd => ?_, h'.staged.trans h.staged⟩
  · exact (h'.streams n d hd).elim (h.streams n d) fun hs => .inr (h.staged ▸ hs)
  · exact (h'.ports p d hd).elim (h.ports p d) fun hs => .inr (h.staged ▸ hs)
  · exact (h'.detectors p d hd).elim (h.detectors p d) fun hs => .inr (h.staged ▸ hs)

theorem definitionsInRange_fromStaged (h : DefsFromStaged s t) (hs : DefinitionsInRange s) : DefinitionsInRange t := by
  obtain ⟨hstreams, hports, hdetectors⟩ := hs
  refine ⟨fun n d hd => hstreams n d ?_, fun p d hd => hports p d ?_, fun p d hd => hdetectors p d ?_⟩
  · exact hd.elim (h.streams n d) fun hs => .inr (h.staged ▸ hs)
  · exact hd.elim (h.ports p d) fun hs => .inr (h.staged ▸ hs)
  · exact hd.elim (h.detectors p d) fun hs => .inr (h.staged ▸ hs)

theorem fresh_active (d : Option StreamDef) (idle : Word) : (StreamEntry.fresh d idle).active = d := by
  cases d <;> rfl

theorem emptyFifo_port_active (s : State) (n : Fin 8) (p : Fin 4) : ((s.emptyFifo n).port p).active = (s.port p).active := by
  simp only [State.emptyFifo]
  split
  all_goals
    refine setPort_active ?_ p
    rfl

theorem applyStream_ports_active (s : State) (n : Fin 8) (p : Fin 4) : ((s.applyStream n).port p).active = (s.port p).active := by
  have hrejudge : ∀ u : State, (u.rejudgeHeld n).ports = u.ports := fun u => by
    obtain h | ⟨ph, h⟩ := rejudgeHeld_cases u n <;> rw [h]
    rfl
  simp only [State.applyStream]
  rw [State.port, hrejudge]
  split <;> exact emptyFifo_port_active _ n p

theorem quietDetector_active (s : State) (p q : Fin 4) : ((s.quietDetector p).detector q).active = (s.detector q).active := by
  refine setDetector_active ?_ q
  rfl

theorem applyStream_detectors_active (s : State) (n : Fin 8) (p : Fin 4) :
    ((s.applyStream n).detector p).active = (s.detector p).active := by
  have hempty : ∀ u : State, (u.emptyFifo n).detectors = u.detectors := fun u => by
    simp only [State.emptyFifo]
    split <;> rfl
  have hrejudge : ∀ u : State, (u.rejudgeHeld n).detectors = u.detectors := fun u => by
    obtain h | ⟨ph, h⟩ := rejudgeHeld_cases u n <;> rw [h]
    rfl
  have hreset : ∀ u : State, ((u.emptyFifo n).detector p).active = (u.detector p).active := fun u => by
    rw [State.detector, State.detector, hempty]
  simp only [State.applyStream]
  rw [State.detector, hrejudge]
  split
  · exact hreset _
  · exact (quietDetector_active _ (portOf n) p).trans (hreset _)

theorem defsFromStaged_applyPort (s : State) (p : Fin 4) : DefsFromStaged s (s.applyPort p) := by
  refine ⟨fun _ _ hd => .inl hd, fun q d hd => ?_, fun q d hd => .inl ((quietDetector_active _ p q).symm.trans hd), rfl⟩
  have hd : ((s.setPort p (PortEntry.fresh s.cmd.staged.ports[p.val])).port q).active = some d := hd
  by_cases hq : q = p
  · rw [hq, setPort_port_same] at hd
    exact .inr (hq ▸ hd)
  · rw [setPort_port_other _ _ _ _ hq] at hd
    exact .inl hd

theorem defsFromStaged_applyDetector (s : State) (p : Fin 4) : DefsFromStaged s (s.applyDetector p) := by
  refine ⟨fun _ _ hd => .inl hd, fun _ _ hd => .inl hd, fun q d hd => ?_, rfl⟩
  have hd : ((s.setDetector p (DetectorEntry.fresh s.cmd.staged.detectors[p.val])).detector q).active = some d := hd
  by_cases hq : q = p
  · rw [hq, setDetector_detector_same] at hd
    exact .inr (hq ▸ hd)
  · rw [setDetector_detector_other _ _ _ _ hq] at hd
    exact .inl hd

theorem defsFromStaged_applyStream (s : State) (n : Fin 8) : DefsFromStaged s (s.applyStream n) := by
  refine ⟨fun m d hd => ?_, fun p d hd => .inl ((applyStream_ports_active s n p).symm.trans hd),
    fun p d hd => .inl ((applyStream_detectors_active s n p).symm.trans hd), ?_⟩
  · rw [applyStream_stream] at hd
    split at hd
    · next hm => exact .inr (by rw [hm]; exact (fresh_active ..).symm.trans hd)
    · exact .inl hd
  · have htables := tablesOnly_applyStream s n
    rw [htables]

/-- APPLY activates staged definitions only (R149). -/
theorem defsFromStaged_applyAll (s : State) (o : ObjectSet) : DefsFromStaged s (s.applyAll o) := by
  have hfold := fun {α : Type} {f : State → α → State} (hf : ∀ s a, DefsFromStaged s (f s a)) =>
    foldl_rel defsFromStaged_refl defsFromStaged_trans hf
  have hwatch : ∀ (s : State) (w : Fin 4), DefsFromStaged s (s.applyWatch w) := fun _ _ => .of_kept (.of_tables rfl rfl rfl rfl)
  exact defsFromStaged_trans _ _ _ (defsFromStaged_trans _ _ _ (defsFromStaged_trans _ _ _
    (hfold defsFromStaged_applyPort _ _) (hfold defsFromStaged_applyStream _ _)) (hfold defsFromStaged_applyDetector _ _))
    (hfold hwatch _ _)

/-- A state without definitions. -/
def NoDefinitions (t : State) : Prop :=
  t.streams = State.reset.streams ∧ t.ports = State.reset.ports ∧ t.detectors = State.reset.detectors ∧
    t.cmd.staged = State.reset.cmd.staged

theorem definitionsInRange_of_none (h : NoDefinitions t) : DefinitionsInRange t := by
  obtain ⟨hstreams, hports, hdetectors, hstaged⟩ := h
  refine ⟨fun n d hd => ?_, fun p d hd => ?_, fun p d hd => ?_⟩
  · rw [State.stream, hstreams, hstaged] at hd
    simp [State.reset, StreamEntry.fresh, Staged.none] at hd
  · rw [State.port, hports, hstaged] at hd
    simp [State.reset, PortEntry.fresh, Staged.none] at hd
  · rw [State.detector, hdetectors, hstaged] at hd
    simp [State.reset, DetectorEntry.fresh, Staged.none] at hd

theorem passThrough_keeps_tables (s : State) :
    s.passThrough.streams = s.streams ∧ s.passThrough.ports = s.ports ∧ s.passThrough.detectors = s.detectors ∧
      s.passThrough.cmd = s.cmd := by
  simp only [State.passThrough]
  split <;> exact ⟨rfl, rfl, rfl, rfl⟩

theorem noDefinitions_softReset (s : State) : NoDefinitions s.softReset := by
  obtain ⟨hstreams, hports, hdetectors, hcmd⟩ := passThrough_keeps_tables s.endStreams.removeDefinitions
  exact ⟨hstreams, hports, hdetectors, by rw [State.softReset, hcmd]; rfl⟩

theorem CommandEffect.definitionsInRange {i : Instr} (h : CommandEffect i s t) (hs : DefinitionsInRange s) :
    DefinitionsInRange t := by
  obtain ⟨hstreams, hports, hdetectors⟩ := hs
  have hs : DefinitionsInRange s := ⟨hstreams, hports, hdetectors⟩
  have hkept : ∀ {u}, DefsKept s u → DefinitionsInRange u := fun h => definitionsInRange_of_kept h hs
  cases h with
  | nothing => exact hs
  | stagePort p x hx =>
    refine ⟨hstreams, fun q d hd => ?_, hdetectors⟩
    simp only [State.stagePort, Vector.getElem_set] at hd
    split at hd
    · next hq => exact hd.elim (fun h => hports q d (.inl h)) (hx d)
    · exact hports q d hd
  | stageStream n x hx =>
    refine ⟨fun m d hd => ?_, hports, hdetectors⟩
    simp only [State.stageStream, Vector.getElem_set] at hd
    split at hd
    · exact hd.elim (fun h => hstreams m d (.inl h)) (hx d)
    · exact hstreams m d hd
  | stageDetector p x hx =>
    refine ⟨hstreams, hports, fun q d hd => ?_⟩
    simp only [State.stageDetector, Vector.getElem_set] at hd
    split at hd
    · exact hd.elim (fun h => hdetectors q d (.inl h)) (hx d)
    · exact hdetectors q d hd
  | stageWatch w x => exact hs
  | apply o _ => exact definitionsInRange_fromStaged (defsFromStaged_applyAll s o) hs
  | start n d armed _ _ => exact hkept (.of_portWork (portWork_beginRun rfl s d armed))
  | stop n => exact hkept (.of_portWork (portWork_stopStream rfl s))
  | abort n => exact hkept (.of_portWork (portWork_abortStream rfl s .aborted))
  | entry n e hactive _ _ => exact hkept (.of_portWork (portWork_setStream rfl hactive))
  | time x _ => exact hs
  | line m => exact hs
  | resetPart => exact definitionsInRange_of_none (noDefinitions_softReset s)

theorem commandRows_definitions {i : Instr} (hi : i ∈ commandRows) :
    Leads (fun s t => DefinitionsInRange s → DefinitionsInRange t) (exec i) :=
  leads_command (fun _ => id) hi fun _ _ _ _ _ _ heffect hs =>
    definitionsInRange_of_kept ⟨fun _ => rfl, fun _ => rfl, fun _ => rfl, rfl⟩ (heffect.definitionsInRange hs)

/-! ### The other steps -/

theorem defsKept_occur (s : State) (n : Fin 8) (f : StreamFault) (index : Nat) : DefsKept s (s.occur n f index) :=
  .of_portWork (portWork_occur rfl s f index)

theorem defsKept_expire (s : State) (a : Access) (r : RingId) (slot : Nat) : DefsKept s (s.expire a r slot) := by
  have hkeep : DefsKept s ({ s with path := { s.path with phase := .ready } } : State) := .of_tables rfl rfl rfl rfl
  refine ⟨fun n => ?_, fun p => ?_, fun p => ?_, ?_⟩
  · simp only [State.expire]
    split
    · split
      · exact (defsKept_occur ..).streams n
      all_goals rfl
    · split
      · exact (defsKept_occur ..).streams n
      all_goals rfl
  all_goals simp [State.port, State.detector]

theorem defsKept_answer (s : State) (a : Access) (r : RingId) (slot w : Nat) (x : Answer) :
    DefsKept s (s.answer a r slot w x) := by
  cases x with
  | pass e => exact .of_tables rfl rfl rfl rfl
  | substitute w => exact .of_tables rfl rfl rfl rfl
  | hold =>
    simp only [State.answer]
    split
    · exact .of_tables rfl rfl rfl rfl
    · exact defsKept_expire ..

theorem defsKept_raiseHits (s : State) (a : Access) (data : Word) (blocked : Bool) (hits : List (Fin 4)) :
    DefsKept s (s.raiseHits a data blocked hits) :=
  foldl_rel (R := DefsKept) (f := fun (s : State) (w : Fin 4) => s.raisePart .watchHit (BitVec.ofNat 8 w.val)
    (data &&& a.laneMask) (a.addr.extractLsb' 0 16) (if blocked then 1 else 0)) .refl (fun _ _ _ => .trans)
    (fun _ _ => .of_tables rfl rfl rfl rfl) hits s

theorem defsKept_watchWrite (s : State) (a : Access) (data : Word) : DefsKept s (s.watchWrite a data) := by
  have hwatches : ∀ w, DefsKept s { s with watches := w } := fun _ => .of_tables rfl rfl rfl rfl
  simp only [State.watchWrite]
  split
  · exact ((hwatches _).trans (defsKept_raiseHits ..)).trans (.of_tables rfl rfl rfl rfl)
  · exact ((hwatches _).trans (defsKept_raiseHits ..)).trans (.of_tables rfl rfl rfl rfl)

theorem defsKept_takeAccess (s : State) (a : Access) : DefsKept s (s.takeAccess a) := by
  simp only [State.takeAccess]
  split
  · exact .of_tables rfl rfl rfl rfl
  · split
    · exact .of_tables rfl rfl rfl rfl
    · exact defsKept_answer ..
    · split
      · exact .of_tables rfl rfl rfl rfl
      · exact defsKept_watchWrite ..

theorem defsKept_makeEffect (s : State) (e : Effect) : DefsKept s (s.makeEffect e) := by
  cases e with
  | none => exact .refl s
  | post r => cases r <;> exact .of_tables (by simp [State.makeEffect]) (by simp) (by simp) (by simp)
  | consume r => exact .of_tables rfl rfl rfl rfl
  | order n slot => exact defsKept_occur ..

theorem defsKept_startDeposit (s : State) : DefsKept s s.startDeposit := by
  simp only [State.startDeposit]
  split
  · exact .refl s
  · next p _ =>
    split
    · exact .refl s
    · refine .after (.of_tables rfl rfl rfl rfl) (t := s.setPort p _) (.of_portWork (portWork_setPort ?_))
      rfl

theorem defsKept_startRecord (s : State) : DefsKept s s.startRecord := by
  simp only [State.startRecord]
  split
  · exact .of_tables rfl rfl rfl rfl
  · exact .of_tables rfl rfl rfl rfl
  all_goals split <;> exact .of_tables rfl rfl rfl rfl

theorem defsKept_startFetch (s : State) : DefsKept s s.startFetch := by
  simp only [State.startFetch]
  split
  · exact .refl s
  · split <;> exact .of_tables rfl rfl rfl rfl

theorem defsKept_startCommand (s : State) : DefsKept s s.startCommand := by
  simp only [State.startCommand]
  split <;> exact .of_tables rfl rfl rfl rfl

theorem defsKept_startBurst (s : State) (r : Requester) : DefsKept s (s.startBurst r) := by
  cases r with
  | deposit => exact defsKept_startDeposit s
  | fetch => exact defsKept_startFetch s
  | record => exact defsKept_startRecord s
  | command => exact defsKept_startCommand s

theorem defsKept_grant (s : State) : DefsKept s s.grant := by
  simp only [State.grant]
  split
  · exact .of_tables rfl rfl rfl rfl
  · split
    · exact .after (defsKept_startBurst ..) (.of_tables rfl rfl rfl rfl)
    · exact .refl s

theorem defsKept_releaseAt (s : State) (r : RingId) (slot : Nat) : DefsKept s (s.releaseAt r slot) :=
  .of_tables (by simp) (by simp) (by simp) (by simp)

theorem defsKept_fetchWord (s : State) (b : FetchBurst) (a : Addr) : DefsKept s (s.fetchWord b a) := by
  have hend : ∀ r v u, DefsKept s ((s.setUse u).setRing r v) := fun _ _ _ => .of_tables rfl rfl rfl rfl
  simp only [State.fetchWord]
  split
  · split
    · exact .after (.of_portWork (portWork_joinTx ..)) (.after (defsKept_releaseAt ..) (.of_tables rfl rfl rfl rfl))
    · exact .after (defsKept_releaseAt ..) (.of_tables rfl rfl rfl rfl)
  · exact .of_tables rfl rfl rfl rfl

theorem defsKept_depositWord (s : State) (b : DepositBurst) (a : Addr) (w : Word) : DefsKept s (s.depositWord b a w) := by
  simp only [State.depositWord]
  split
  · refine .after (.of_portWork (portWork_processMarks ..)) ?_
    split
    · exact .after (.of_portWork (portWork_countDeposit ..)) (.after (defsKept_releaseAt ..) (.of_tables rfl rfl rfl rfl))
    · exact .after (defsKept_releaseAt ..) (.of_tables rfl rfl rfl rfl)
  · exact .of_tables rfl rfl rfl rfl

theorem triggered_active (e : StreamEntry) : e.triggered.active = e.active := by
  rw [triggered_eq]
  split <;> rfl

theorem noDefinitions_cleared (s : State) (start : StartUp) : NoDefinitions (s.cleared start) := ⟨rfl, rfl, rfl, rfl⟩

theorem exec_definitionsInRange (i : Instr) : Leads (fun s t => DefinitionsInRange s → DefinitionsInRange t) (exec i) := by
  have hkept : ∀ {o}, Leads DefsKept o → Leads (fun s t => DefinitionsInRange s → DefinitionsInRange t) o :=
    fun h => h.mono fun _ _ => definitionsInRange_of_kept
  have hwork : ∀ {o} {p}, Leads (PortWork p) o → Leads (fun s t => DefinitionsInRange s → DefinitionsInRange t) o :=
    fun h => hkept (h.mono fun _ _ => .of_portWork)
  cases i with
  | accessArrival c =>
    refine hkept fun s => ?_
    simp only [exec, execAccessArrival]
    split
    · exact ⟨s, rfl, .refl s⟩
    · split
      · split
        · exact ⟨_, rfl, .after (defsKept_takeAccess ..) (.of_tables rfl rfl rfl rfl)⟩
        · exact ⟨s, rfl, .refl s⟩
      · exact ⟨_, rfl, .of_tables (by simp) (by simp) (by simp) (by simp)⟩
  | arbiterGrant =>
    refine hkept (leads_whenLive .refl fun s _ => ?_)
    split
    · exact defsKept_grant s
    · exact .refl s
  | passageComplete =>
    refine hkept (leads_whenLive .refl fun s _ => ?_)
    split
    · exact .after (defsKept_makeEffect ..) (.of_tables (by simp) (by simp) (by simp) (by simp))
    · exact .refl s
  | holdExpiry =>
    refine hkept (leads_whenLive .refl fun s _ => ?_)
    split
    · exact defsKept_expire ..
    · exact .refl s
  | fetchWordComplete =>
    refine hkept (leads_whenLive .refl fun s _ => ?_)
    split
    · split
      · exact defsKept_fetchWord ..
      · exact .of_tables rfl rfl rfl rfl
    · exact .refl s
  | depositWordComplete =>
    refine hkept (leads_whenLive .refl fun s _ => ?_)
    split
    · split
      · exact defsKept_depositWord ..
      · exact .of_tables rfl rfl rfl rfl
    · exact .refl s
  | rxStoppingDrained p => exact hwork (rxStoppingDrained_portWork p)
  | rxRunComplete p => exact hwork (rxRunComplete_portWork p)
  | commandRecordRead =>
    refine hkept (leads_whenLive .refl fun s _ => ?_)
    split <;> exact .of_tables rfl rfl rfl rfl
  | commandResultWritten =>
    refine hkept (leads_whenLive .refl fun s _ => ?_)
    split
    · next ws r res _ _ =>
      have hresult : ∀ u : State, DefsKept u (u.afterResult r) := fun u => by
        simp only [State.afterResult]
        split <;> exact .of_tables rfl rfl rfl rfl
      have htake : ∀ u : State, DefsKept u { u with cmd := { u.cmd with state := .waiting } }.takeCommand := fun u =>
        .of_tables (by simp) (by simp) (by simp) (by simp)
      exact .after (htake _) (.after (hresult _) (.after (defsKept_releaseAt ..) (.of_tables rfl rfl rfl rfl)))
    · exact .refl s
  | eventRecordWritten =>
    refine hkept (leads_whenLive .refl fun s _ => ?_)
    split <;> exact .of_tables rfl rfl rfl rfl
  | intPulseEnd => exact hkept (leads_whenLive .refl fun s _ => .of_tables rfl rfl rfl rfl)
  | identityFirstBurstComplete =>
    refine hkept (leads_whenLive .refl fun s _ => ?_)
    split <;> exact .of_tables rfl rfl rfl rfl
  | identityBurstComplete =>
    refine hkept (leads_whenLive .refl fun s _ => ?_)
    split
    · exact .of_tables (by simp [State.raiseStarted, State.raisePart, State.landBurst])
        (by simp [State.raiseStarted, State.raisePart, State.landBurst])
        (by simp [State.raiseStarted, State.raisePart, State.landBurst])
        (by simp [State.raiseStarted, State.raisePart, State.landBurst])
    · exact .refl s
  | frameBoundary p fsy => exact hwork (frameBoundary_portWork p fsy)
  | lateFrame p => exact hwork (lateFrame_portWork p)
  | channelSlotStart p => exact hwork (channelSlotStart_portWork p)
  | rxChannelWordComplete p sdi => exact hwork (rxChannelWordComplete_portWork p sdi)
  | starvationExpiry p => exact hwork (starvationExpiry_portWork p)
  | trigEdge =>
    refine hkept (leads_whenLive .refl fun s _ => ?_)
    split
    · exact .refl s
    · exact ⟨fun n => (congrArg StreamEntry.active (stream_of_map8 (f := StreamEntry.triggered) rfl n)).trans
        (triggered_active _), fun _ => rfl, fun _ => rfl, rfl⟩
  | tagclkEdge =>
    refine hkept (leads_whenLive .refl fun s _ => ?_)
    split <;> exact .of_tables rfl rfl rfl rfl
  | internalTimeTagIncrease =>
    refine hkept (leads_whenLive .refl fun s _ => ?_)
    split <;> exact .of_tables rfl rfl rfl rfl
  | rstFall =>
    intro s
    simp only [exec, execRstFall]
    split
    · exact ⟨s, rfl, id⟩
    all_goals exact ⟨_, rfl, fun _ => definitionsInRange_of_none (noDefinitions_cleared ..)⟩
  | rstRise b q =>
    intro s
    simp only [exec, execRstRise]
    split
    · exact ⟨_, rfl, fun _ => definitionsInRange_of_none (noDefinitions_cleared ..)⟩
    all_goals exact ⟨s, rfl, id⟩
  | pcsOrStrobesHigh =>
    refine hkept fun s => ?_
    simp only [exec, execPcsOrStrobesHigh]
    split <;> exact ⟨_, rfl, .of_tables rfl rfl rfl rfl⟩
  | _ => exact commandRows_definitions (by simp [commandRows, commandTable])

theorem entry_tick_active (e : StreamEntry) : e.tick.active = e.active := by
  simp only [StreamEntry.tick]
  split <;> rfl

theorem defsKept_tick (s : State) : DefsKept s s.tick := by
  simp only [State.tick]
  split
  · exact ⟨fun n => (congrArg StreamEntry.active (stream_of_map8 (f := StreamEntry.tick) rfl n)).trans (entry_tick_active _),
      fun _ => rfl, fun _ => rfl, rfl⟩
  · exact .refl s

/-- No step takes a definition out of its range. -/
theorem step_definitionsInRange {s t : State} (hs : DefinitionsInRange s) (hstep : step s = .next t) : DefinitionsInRange t :=
  step_keeps (P := DefinitionsInRange) (fun _ _ => id) (fun s => definitionsInRange_of_kept (defsKept_tick s))
    exec_definitionsInRange hs hstep

end Chain

end Sys2Proof.Machine

/-! PROOF. No FIFO and no queue grows past its bound (R91, R98, R102, R167). A step adds to no TX FIFO but where a word of a fetch
burst joins one, and the burst was granted with room for its words; it adds to an RX FIFO where a frame is admitted and where a mark
is placed, each with room; and to the pending queue where an event is raised, which is dropped for want of room. -/

namespace Sys2Proof.Machine

open Sys2Proof Sys2Proof.Claims

/-- A fetch burst in `v` is the one in `u`, at the same word, and stands no firmer. -/
def FetchKept (u v : PortUse) : Prop :=
  ∀ b, v = .fetch b → ∃ a, u = .fetch a ∧ a.port = b.port ∧ a.reads = b.reads ∧ (b.ringStands = true → a.ringStands = true) ∧
    (b.runStands = true → a.runStands = true)

theorem FetchKept.refl (u : PortUse) : FetchKept u u := fun b h => ⟨b, h, rfl, rfl, id, id⟩

theorem FetchKept.trans {u v w : PortUse} (h : FetchKept u v) (h' : FetchKept v w) : FetchKept u w := fun c hc => by
  obtain ⟨b, hb, hport', hreads', hring', hrun'⟩ := h' c hc
  obtain ⟨a, ha, hport, hreads, hring, hrun⟩ := h b hb
  exact ⟨a, ha, hport.trans hport', hreads.trans hreads', fun hs => hring (hring' hs), fun hs => hrun (hrun' hs)⟩

theorem FetchKept.of_eq {u v : PortUse} (h : v = u) : FetchKept u v := h ▸ .refl u

/-- No burst of the Fetch Engine is under way. -/
theorem FetchKept.of_none {u v : PortUse} (h : ∀ b, v ≠ .fetch b) : FetchKept u v := fun b hb => absurd hb (h b)

theorem fetchKept_afterRun (u : PortUse) (n : Fin 8) : FetchKept u (u.afterRun n) := by
  cases u with
  | fetch a =>
    simp only [PortUse.afterRun]
    split
    · intro b hb
      cases hb
      exact ⟨a, rfl, rfl, rfl, id, by simp⟩
    · exact .refl _
  | deposit a =>
    simp only [PortUse.afterRun]
    exact .of_none fun b => by split <;> simp
  | _ => exact .refl _

theorem fetchKept_afterRuns (u : PortUse) (ns : List (Fin 8)) : FetchKept u (u.afterRuns ns) := by
  induction ns generalizing u with
  | nil => exact .refl u
  | cons n ns ih => exact (fetchKept_afterRun u n).trans (ih _)

/-- Every FIFO, the fetch burst and the event queue are within bounds that held before. -/
structure NoGrowth (s t : State) : Prop where
  fifos : ∀ p, FifosKept p s t
  use : FetchKept s.arb.use t.arb.use
  events : s.events.Bounded → t.events.Bounded

section Chain

variable {p : Fin 4} {s t u : State}

theorem NoGrowth.refl (s : State) : NoGrowth s s := ⟨fun p => .refl p s, .refl _, id⟩

theorem NoGrowth.trans (h : NoGrowth s t) (h' : NoGrowth t u) : NoGrowth s u :=
  ⟨fun p => (h.fifos p).trans (h'.fifos p), h.use.trans h'.use, fun hb => h'.events (h.events hb)⟩

theorem NoGrowth.after (h' : NoGrowth t u) (h : NoGrowth s t) : NoGrowth s u := h.trans h'

theorem fifosKept_of_eq (hports : t.ports = s.ports) (hstreams : t.streams = s.streams) (p : Fin 4) : FifosKept p s t := by
  have hport : t.port p = s.port p := by rw [State.port, State.port, hports]
  have hgate : (t.stream (rxOf p)).gateOpen = (s.stream (rxOf p)).gateOpen := by rw [State.stream, State.stream, hstreams]
  exact .of_le (Nat.le_of_eq (by rw [hport])) (Nat.le_of_eq (by rw [hport])) (Nat.le_of_eq (by rw [hport])) (by rw [hgate]; exact id)

/-- The FIFOs, the gates and the event queue stand, and no burst of the Fetch Engine begins. -/
theorem NoGrowth.of_eq (hports : t.ports = s.ports) (hstreams : t.streams = s.streams) (huse : FetchKept s.arb.use t.arb.use)
    (hevents : s.events.Bounded → t.events.Bounded) : NoGrowth s t :=
  ⟨fifosKept_of_eq hports hstreams, huse, hevents⟩

/-- What a port's work can do to the other ports is nothing, so its own FIFOs decide. -/
theorem NoGrowth.of_portWork (h : PortWork p s t) (hf : FifosKept p s t) : NoGrowth s t := by
  refine ⟨fun q => ?_, ?_, h.events⟩
  · by_cases hq : q = p
    · exact hq ▸ hf
    · obtain ⟨hport, -, -, hrx⟩ := h.others q hq
      exact .of_le (Nat.le_of_eq (by rw [hport])) (Nat.le_of_eq (by rw [hport])) (Nat.le_of_eq (by rw [hport])) (by rw [hrx]; exact id)
  · obtain ⟨ns, hns⟩ := h.use
    exact hns ▸ fetchKept_afterRuns _ ns

/-- A fetch burst that stands has room for its words (R67). -/
def FetchRoom (s : State) : Prop :=
  ∀ b, s.arb.use = .fetch b → b.ringStands = true → b.runStands = true → b.reads.length + (s.port b.port).txFifo.length ≤ 32

theorem queuesBounded_iff :
    QueuesBounded s ↔ (∀ p, (s.port p).txFifo.length ≤ 32 ∧ RxBounded s p) ∧ FetchRoom s ∧ s.events.Bounded := Iff.rfl

theorem NoGrowth.bounded (h : NoGrowth s t) (hs : QueuesBounded s) : QueuesBounded t := by
  obtain ⟨hfifos, hroom, hevents⟩ := queuesBounded_iff.1 hs
  refine queuesBounded_iff.2 ⟨fun p => ⟨Nat.le_trans (h.fifos p).tx (hfifos p).1, (h.fifos p).rx (hfifos p).2⟩, fun b hb hring hrun => ?_,
    h.events hevents⟩
  obtain ⟨a, ha, hport, hreads, hring', hrun'⟩ := h.use b hb
  have hlen := hroom a ha (hring' hring) (hrun' hrun)
  rw [hport, hreads] at hlen
  exact Nat.le_trans (Nat.add_le_add_left (h.fifos b.port).tx _) hlen

/-! ### Runs and boundaries -/

theorem FifosKept.after (h' : FifosKept p t u) (h : FifosKept p s t) : FifosKept p s u := h.trans h'

theorem fifosKept_raiseStream (p : Fin 4) (s : State) (n : Fin 8) (enabled : Enables → Bool) (kind : EventKind) (a b c : Word) :
    FifosKept p s (s.raiseStream n enabled kind a b c) :=
  (steady_raiseStream ..).fifos

theorem fifosKept_endRun (p : Fin 4) (s : State) (n : Fin 8) (why : EndReason) : FifosKept p s (s.endRun n why) :=
  .after (fifosKept_raiseStream ..) (.after (fifosKept_setStream p id) (steady_setUse p s _).fifos)

theorem fifosKept_startRunning (p : Fin 4) (s : State) (n : Fin 8) : FifosKept p s (s.startRunning n) :=
  .after (fifosKept_raiseStream ..) (fifosKept_setStream p id)

theorem fifosKept_boundaryTx (p : Fin 4) (s : State) : FifosKept p s (s.boundaryTx p) := by
  simp only [State.boundaryTx]
  split
  · exact fifosKept_startRunning ..
  · exact .after (fifosKept_endRun ..) (steady_throwOutTx ..).fifos
  · exact .ite (fifosKept_endRun ..) (.refl p s)
  all_goals exact .refl p s

theorem fifosKept_boundaryRx (p : Fin 4) (s : State) : FifosKept p s (s.boundaryRx p) := by
  simp only [State.boundaryRx]
  split
  · exact fifosKept_startRunning ..
  all_goals exact .refl p s

theorem fifosKept_takeBoundary (p : Fin 4) (s : State) : FifosKept p s (s.takeBoundary p) := by
  have hadm : FifosKept p s ((((s.beginFrame p).boundaryTx p).boundaryRx p).admission p) :=
    .after (steady_admission ..).fifos (.after (fifosKept_boundaryRx ..) (.after (fifosKept_boundaryTx ..)
      (steady_beginFrame p s).fifos))
  exact .after (steady_processMarks ..).fifos (.ite (.after (steady_frameEnd ..).fifos hadm) hadm)

theorem fifosKept_boundaryAt (p : Fin 4) (s : State) (d : PortDef) (position : Nat) : FifosKept p s (s.boundaryAt p d position) := by
  simp only [State.boundaryAt]
  split
  · split
    · exact .after (fifosKept_takeBoundary ..) (steady_endFrame ..).fifos
    all_goals exact fifosKept_takeBoundary ..
  · exact .refl p s

theorem fifosKept_cutRun {n : Fin 8} (hn : portOf n = p) (s : State) (why : EndReason) : FifosKept p s (s.cutRun n why) := by
  subst hn
  simp only [State.cutRun]
  split
  · exact .after (fifosKept_endRun ..) (steady_throwOutTx ..).fifos
  · exact .after (fifosKept_endRun ..) (.after (steady_shutGate ..).fifos (.after (steady_closeOpenSegment ..).fifos
      (steady_throwOutRx ..).fifos))

theorem fifosKept_stopRx (p : Fin 4) (s : State) : FifosKept p s (s.stopRx p) := by
  have hmarks : FifosKept p s (((s.setStream (rxOf p) (s.stream (rxOf p)).toStopping).closeGate p).processMarks p) :=
    .after (steady_processMarks ..).fifos (.after (steady_closeGate ..).fifos (fifosKept_setStream p id))
  exact .ite (.after (fifosKept_endRun ..) hmarks) hmarks

theorem fifosKept_stopStream {n : Fin 8} (hn : portOf n = p) (s : State) : FifosKept p s (s.stopStream n) := by
  subst hn
  simp only [State.stopStream]
  split
  iterate 3 exact .refl _ s
  · exact fifosKept_endRun ..
  · exact .after (fifosKept_endRun ..) (.ite (steady_throwOutTx ..).fifos (.refl _ s))
  · exact .ite (fifosKept_setStream _ id) (fifosKept_stopRx ..)

theorem fifosKept_abortStream {n : Fin 8} (hn : portOf n = p) (s : State) (why : EndReason) :
    FifosKept p s (s.abortStream n why) := .ite (fifosKept_cutRun hn s why) (.refl p s)

/-- A FIFO emptied is within its bounds, the gate open or not. -/
theorem rxBounded_of_empty (h : (t.port p).rxFifo = []) : RxBounded t p := by
  rw [RxBounded, h]
  exact ⟨Nat.zero_le _, Nat.zero_le _, fun _ => Nat.zero_le _⟩

theorem fifosKept_beginRun (s : State) (n : Fin 8) (d : StreamDef) (armed : Bool) :
    FifosKept (portOf n) s (s.beginRun n d armed) := by
  have hport := beginRun_port s n (portOf n) d armed
  rw [if_pos rfl] at hport
  by_cases htx : isTx n = true
  · rw [if_pos htx] at hport
    refine .of_le (by simp [hport]) (by simp [hport]) (by simp [hport]) ?_
    rw [beginRun_stream, if_neg]
    · exact id
    · exact fun h => txOf_ne_rxOf _ _ ((txOf_portOf htx).trans h.symm)
  · rw [if_neg htx] at hport
    exact ⟨by simp [hport], fun _ => rxBounded_of_empty (by rw [hport])⟩

/-! ### APPLY and RESET PART -/

theorem fetchKept_dropClaims (s : State) (n : Fin 8) : FetchKept s.arb.use (s.dropClaims n).arb.use := by
  rw [dropClaims_use]
  split
  · next a ha =>
    rw [ha]
    split
    · intro b hb
      cases hb
      exact ⟨a, rfl, rfl, rfl, by simp, id⟩
    · exact .refl _
  · exact .of_none fun b => by split <;> simp
  · exact .refl _

theorem noGrowth_dropClaims (s : State) (n : Fin 8) : NoGrowth s (s.dropClaims n) :=
  .of_eq rfl rfl (fetchKept_dropClaims s n) id

theorem noGrowth_setStream {n : Fin 8} {e : StreamEntry} (h : e.gateOpen = true → (s.stream n).gateOpen = true) :
    NoGrowth s (s.setStream n e) :=
  ⟨fun p => fifosKept_setStream p h, .refl _, id⟩

/-- A change of a port that adds to neither FIFO. -/
theorem noGrowth_setPort {e : PortEntry} (htx : e.txFifo.length ≤ (s.port p).txFifo.length)
    (hplaces : placeCount e.rxFifo ≤ placeCount (s.port p).rxFifo)
    (hmarks : markCount e.rxFifo ≤ markCount (s.port p).rxFifo) : NoGrowth s (s.setPort p e) := by
  refine ⟨fun q => ?_, .refl _, id⟩
  by_cases hq : q = p
  · exact hq ▸ (steady_setPort htx hplaces hmarks).fifos
  · have hport : (s.setPort p e).port q = s.port q := setPort_port_other _ _ _ _ hq
    exact .of_le (Nat.le_of_eq (by rw [hport])) (Nat.le_of_eq (by rw [hport])) (Nat.le_of_eq (by rw [hport])) id

theorem noGrowth_emptyFifo (s : State) (n : Fin 8) : NoGrowth s (s.emptyFifo n) := by
  simp only [State.emptyFifo]
  split
  · exact noGrowth_setPort (Nat.zero_le _) (Nat.le_refl _) (Nat.le_refl _)
  · exact noGrowth_setPort (Nat.le_refl _) (Nat.zero_le _) (Nat.zero_le _)

theorem noGrowth_rejudgeHeld (s : State) (n : Fin 8) : NoGrowth s (s.rejudgeHeld n) := by
  obtain h | ⟨ph, h⟩ := rejudgeHeld_cases s n <;> rw [h]
  · exact .refl s
  · exact .of_eq rfl rfl (.refl _) id

theorem noGrowth_quietDetector (s : State) (p : Fin 4) : NoGrowth s (s.quietDetector p) := .of_eq rfl rfl (.refl _) id

theorem noGrowth_applyPort (s : State) (p : Fin 4) : NoGrowth s (s.applyPort p) :=
  .after (noGrowth_quietDetector ..) (noGrowth_setPort (Nat.zero_le _) (Nat.zero_le _) (Nat.zero_le _))

theorem noGrowth_applyStream (s : State) (n : Fin 8) : NoGrowth s (s.applyStream n) := by
  have hring : ∀ v (u : State), NoGrowth u (u.setRing (.stream n) v) := fun _ _ => .of_eq rfl rfl (.refl _) id
  have hempty := NoGrowth.after (noGrowth_emptyFifo _ n) (.after (hring (Ring.fresh (some 0)) _)
    (.after (noGrowth_setStream (n := n) (e := StreamEntry.fresh s.cmd.staged.streams[n.val] (s.idleWord (portOf n)))
      (by simp [StreamEntry.fresh]))
      (noGrowth_dropClaims s n)))
  refine .after (noGrowth_rejudgeHeld _ n) ?_
  split
  · exact hempty
  · exact .after (noGrowth_quietDetector ..) hempty

theorem noGrowth_applyAll (s : State) (o : ObjectSet) : NoGrowth s (s.applyAll o) := by
  have hfold := fun {α : Type} {f : State → α → State} (hf : ∀ s a, NoGrowth s (f s a)) =>
    foldl_rel NoGrowth.refl (fun _ _ _ => .trans) hf
  have hplain : ∀ {α : Type} (f : State → α → State), (∀ s a, (f s a).ports = s.ports ∧ (f s a).streams = s.streams ∧
      (f s a).arb = s.arb ∧ (f s a).events = s.events) → ∀ s a, NoGrowth s (f s a) := fun f hf s a => by
    obtain ⟨hports, hstreams, harb, hevents⟩ := hf s a
    exact .of_eq hports hstreams (.of_eq (by rw [harb])) (hevents ▸ id)
  exact .after (hfold (hplain State.applyWatch fun _ _ => ⟨rfl, rfl, rfl, rfl⟩) _ _)
    (.after (hfold (hplain State.applyDetector fun _ _ => ⟨rfl, rfl, rfl, rfl⟩) _ _)
      (.after (hfold noGrowth_applyStream _ _) (hfold noGrowth_applyPort _ _)))

/-- After a reset the FIFOs are empty and the gates shut. -/
theorem fifosKept_of_reset (hports : t.ports = State.reset.ports) (p : Fin 4) : FifosKept p s t := by
  have hport : t.port p = State.reset.port p := by rw [State.port, State.port, hports]
  have hempty : (State.reset.port p).txFifo = [] ∧ (State.reset.port p).rxFifo = [] := by
    simp [State.port, State.reset, PortEntry.fresh]
  exact ⟨by simp [hport, hempty.1], fun _ => rxBounded_of_empty (by rw [hport, hempty.2])⟩

theorem noGrowth_endStreams (s : State) : NoGrowth s s.endStreams :=
  foldl_rel NoGrowth.refl (fun _ _ _ => .trans)
    (fun s _ => .of_portWork (portWork_abortStream rfl s .reset) (fifosKept_abortStream rfl s .reset)) allStreams s

theorem noGrowth_removeDefinitions (s : State) : NoGrowth s s.removeDefinitions := by
  have hdrop : NoGrowth s (allStreams.foldl State.dropClaims s) :=
    foldl_rel NoGrowth.refl (fun _ _ _ => .trans) noGrowth_dropClaims allStreams s
  exact ⟨fifosKept_of_reset rfl, hdrop.use, hdrop.events⟩

theorem noGrowth_passThrough (s : State) : NoGrowth s s.passThrough := by
  simp only [State.passThrough]
  split <;> exact .of_eq rfl rfl (.refl _) id

theorem noGrowth_softReset (s : State) : NoGrowth s s.softReset :=
  ((noGrowth_endStreams s).trans (noGrowth_removeDefinitions _)).trans (noGrowth_passThrough _)

theorem setLine_bounded (u : EventUnit) (m : LineMode) : u.Bounded → (u.setLine m).Bounded := by
  simp only [EventUnit.setLine]
  split <;> exact id

theorem CommandEffect.noGrowth {i : Instr} (h : CommandEffect i s t) : NoGrowth s t := by
  cases h with
  | nothing => exact .refl s
  | apply o _ => exact noGrowth_applyAll s o
  | start n d armed _ _ => exact .of_portWork (portWork_beginRun rfl s d armed) (fifosKept_beginRun s n d armed)
  | stop n => exact .of_portWork (portWork_stopStream rfl s) (fifosKept_stopStream rfl s)
  | abort n => exact .of_portWork (portWork_abortStream rfl s .aborted) (fifosKept_abortStream rfl s .aborted)
  | entry n e _ _ hgate => exact noGrowth_setStream (hgate ▸ id)
  | resetPart => exact noGrowth_softReset s
  | line m => exact .of_eq rfl rfl (.refl _) (setLine_bounded s.events m)
  | _ => exact .of_eq rfl rfl (.refl _) id

theorem noGrowth_commandRows {i : Instr} (hi : i ∈ commandRows) : Leads NoGrowth (exec i) :=
  leads_command .refl hi fun _ _ _ _ _ _ heffect => heffect.noGrowth.trans (.of_eq rfl rfl (.refl _) id)

/-! ### The steps -/

theorem noGrowth_raise (s : State) (e : Event) : NoGrowth s (s.raise e) := .of_eq rfl rfl (.refl _) fun h => h.raise e

theorem noGrowth_setPhase (s : State) (ph : PathPhase) : NoGrowth s (s.setPhase ph) := .of_eq rfl rfl (.refl _) id

theorem noGrowth_setUse (s : State) {u : PortUse} (h : ∀ b, u ≠ .fetch b) : NoGrowth s (s.setUse u) :=
  .of_eq rfl rfl (.of_none h) id

theorem noGrowth_endAccess (s : State) : NoGrowth s s.endAccess := .of_eq (by simp) (by simp) (.of_eq (by simp)) (by simp)

theorem noGrowth_substitute (s : State) (w : Word) : NoGrowth s (s.substitute w) :=
  .of_eq (by simp) (by simp) (.of_eq (by simp)) (by simp)

theorem noGrowth_occur (s : State) (n : Fin 8) (f : StreamFault) (index : Nat) : NoGrowth s (s.occur n f index) :=
  .of_portWork (portWork_occur rfl s f index) (steady_occur ..).fifos

theorem noGrowth_expire (s : State) (a : Access) (r : RingId) (slot : Nat) : NoGrowth s (s.expire a r slot) := by
  simp only [State.expire]
  split
  · split
    · exact (noGrowth_occur ..).trans (noGrowth_endAccess _)
    · exact (noGrowth_raise ..).trans (noGrowth_endAccess _)
    · exact noGrowth_endAccess s
  · split
    · exact (noGrowth_occur ..).trans (noGrowth_substitute ..)
    all_goals exact noGrowth_substitute ..

theorem noGrowth_answer (s : State) (a : Access) (r : RingId) (slot w : Nat) (x : Answer) : NoGrowth s (s.answer a r slot w x) := by
  cases x with
  | pass e => exact noGrowth_setPhase ..
  | substitute w => exact noGrowth_substitute ..
  | hold =>
    simp only [State.answer]
    split
    · exact noGrowth_setPhase ..
    · exact noGrowth_expire ..

theorem noGrowth_raiseHits (s : State) (a : Access) (data : Word) (blocked : Bool) (hits : List (Fin 4)) :
    NoGrowth s (s.raiseHits a data blocked hits) :=
  foldl_rel (R := NoGrowth) (f := fun (s : State) (w : Fin 4) => s.raisePart .watchHit (BitVec.ofNat 8 w.val)
    (data &&& a.laneMask) (a.addr.extractLsb' 0 16) (if blocked then 1 else 0)) .refl (fun _ _ _ => .trans)
    (fun _ _ => noGrowth_raise ..) hits s

theorem noGrowth_watchWrite (s : State) (a : Access) (data : Word) : NoGrowth s (s.watchWrite a data) := by
  have hwatches : ∀ w, NoGrowth s { s with watches := w } := fun _ => .of_eq rfl rfl (.refl _) id
  simp only [State.watchWrite]
  split
  · exact ((hwatches _).trans (noGrowth_raiseHits ..)).trans (noGrowth_endAccess _)
  · exact ((hwatches _).trans (noGrowth_raiseHits ..)).trans (noGrowth_setPhase ..)

theorem noGrowth_takeAccess (s : State) (a : Access) : NoGrowth s (s.takeAccess a) := by
  simp only [State.takeAccess]
  split
  · exact noGrowth_setPhase ..
  · split
    · exact noGrowth_setPhase ..
    · exact noGrowth_answer ..
    · split
      · exact noGrowth_setPhase ..
      · exact noGrowth_watchWrite ..

theorem noGrowth_makeEffect (s : State) (e : Effect) : NoGrowth s (s.makeEffect e) := by
  cases e with
  | none => exact .refl s
  | post r => cases r <;> exact .of_eq (by simp) (by simp [State.makeEffect]) (.of_eq (by simp)) (by simp [State.makeEffect])
  | consume r => exact .of_eq rfl rfl (.refl _) id
  | order n slot => exact noGrowth_occur ..

theorem noGrowth_releaseAt (s : State) (r : RingId) (slot : Nat) : NoGrowth s (s.releaseAt r slot) :=
  .of_eq (by simp) (by simp) (.of_eq (by simp)) (by simp)

theorem noGrowth_countGrant (s : State) (g : Option Requester) : NoGrowth s (s.countGrant g) := .of_eq rfl rfl (.refl _) id

theorem noGrowth_drop (s : State) (p : Fin 4) (k : Nat) :
    NoGrowth s (s.setPort p { s.port p with rxFifo := (s.port p).rxFifo.drop k }) :=
  noGrowth_setPort (Nat.le_refl _) (List.drop_sublist ..).countP_le (List.drop_sublist ..).countP_le

theorem noGrowth_startDeposit (s : State) : NoGrowth s s.startDeposit := by
  simp only [State.startDeposit]
  split
  · exact .refl s
  · next p _ =>
    split
    · exact .refl s
    · exact .after (t := s.setPort p _) (.of_eq rfl rfl (.of_none nofun) id) (noGrowth_drop s p _)

theorem noGrowth_startRecord (s : State) : NoGrowth s s.startRecord := by
  simp only [State.startRecord]
  split
  · exact .of_eq rfl rfl (.of_none nofun) id
  · exact .of_eq rfl rfl (.of_none nofun) id
  all_goals
    split
    · exact .refl s
    · next q queue hqueue =>
      refine .of_eq rfl rfl (.of_none nofun) fun ⟨hlen, hdropped, hcarried⟩ => ⟨?_, hdropped, fun x hx => hcarried x ?_⟩
      · rw [hqueue] at hlen
        exact Nat.le_of_succ_le hlen
      · rw [hqueue]
        exact List.mem_cons_of_mem _ hx

theorem noGrowth_startCommand (s : State) : NoGrowth s s.startCommand := by
  simp only [State.startCommand]
  split
  iterate 2 exact .of_eq rfl rfl (.of_none nofun) id
  all_goals exact .refl s

/-- A fetch burst is granted with room for its words (R67). -/
theorem startFetch_bounded (hs : QueuesBounded s) : QueuesBounded s.startFetch := by
  obtain ⟨hfifos, -, hevents⟩ := queuesBounded_iff.1 hs
  simp only [State.startFetch]
  split
  · exact hs
  · next p _ =>
    split
    · exact hs
    · refine queuesBounded_iff.2 ⟨hfifos, fun b hb _ _ => ?_, hevents⟩
      cases hb
      have hlen := (hfifos p).1
      simp only [List.length_map, slotsFrom_length]
      refine (?_ : _ + (s.port p).txFifo.length ≤ 32)
      split
      · simp only [fifoPlaces]
        omega
      · simp only [fifoPlaces]
        omega

theorem grant_bounded (hs : QueuesBounded s) : QueuesBounded s.grant := by
  simp only [State.grant]
  split
  · exact (NoGrowth.after (noGrowth_setUse (u := .passage) _ nofun) (noGrowth_countGrant s none)).bounded hs
  · split
    · next r _ =>
      have hcount := (noGrowth_countGrant s (some r)).bounded hs
      cases r with
      | deposit => exact (noGrowth_startDeposit _).bounded hcount
      | fetch => exact startFetch_bounded hcount
      | record => exact (noGrowth_startRecord _).bounded hcount
      | command => exact (noGrowth_startCommand _).bounded hcount
    · exact hs

theorem noGrowth_checkLimit (s : State) (n : Fin 8) : NoGrowth s (s.checkLimit n) :=
  .of_portWork (portWork_checkLimit rfl s) (steady_checkLimit rfl s).fifos

/-- A word joins a TX FIFO that has room for it and for the words of the burst under way. -/
theorem joinTx_bounded (w : Word) (hs : QueuesBounded s) (hroom : (s.port p).txFifo.length < 32)
    (hburst : ∀ b, s.arb.use = .fetch b → b.port = p → b.reads.length + (s.port p).txFifo.length < 32) :
    QueuesBounded (s.joinTx p w) := by
  obtain ⟨hfifos, hfetch, hevents⟩ := queuesBounded_iff.1 hs
  have hjoin : ∀ e : StreamEntry, e.gateOpen = (s.stream (txOf p)).gateOpen → QueuesBounded
      ((s.setStream (txOf p) e).setPort p { s.port p with txFifo := (s.port p).txFifo ++ [w] }) := fun e he => by
    have hentry : QueuesBounded (s.setStream (txOf p) e) := (noGrowth_setStream (by rw [he]; exact id)).bounded hs
    obtain ⟨hfifos', -, -⟩ := queuesBounded_iff.1 hentry
    refine queuesBounded_iff.2 ⟨fun q => ?_, fun b hb hring hrun => ?_, hevents⟩
    · by_cases hq : q = p
      · subst hq
        refine ⟨by rw [setPort_port_same, List.length_append]; exact hroom, ?_⟩
        have hrx := (hfifos' q).2
        simp only [RxBounded] at hrx ⊢
        simpa using hrx
      · have hq' := hfifos' q
        simp only [RxBounded] at hq' ⊢
        rwa [setPort_port_other _ _ _ _ hq]
    · by_cases hq : b.port = p
      · have hlen := hburst b hb hq
        rw [hq, setPort_port_same]
        simp only [List.length_append, List.length_singleton]
        omega
      · rw [setPort_port_other _ _ _ _ hq]
        exact hfetch b hb hring hrun
  simp only [State.joinTx]
  split
  iterate 3 exact (noGrowth_checkLimit ..).bounded (hjoin _ rfl)
  all_goals exact hs

theorem fetchNext_eq {b c : FetchBurst} (h : b.next = .fetch c) : c = { b with reads := b.reads.tail } := by
  simp only [FetchBurst.next] at h
  split at h
  · cases h
  · cases h
    rfl

/-- The word that completes leaves the burst, and joins the FIFO where the burst has room for it. -/
theorem fetchWord_bounded {b : FetchBurst} {a : Addr} {rest : List Addr} (hb : s.arb.use = .fetch b) (hreads : b.reads = a :: rest)
    (hs : QueuesBounded s) : QueuesBounded (s.fetchWord b a) := by
  obtain ⟨hfifos, hfetch, hevents⟩ := queuesBounded_iff.1 hs
  have hnext : QueuesBounded (s.setUse b.next) := queuesBounded_iff.2 ⟨hfifos, fun c hc hring hrun => by
    rw [fetchNext_eq hc] at hring hrun ⊢
    have hlen := hfetch b hb hring hrun
    simp only [hreads, List.length_cons, List.tail_cons] at hlen ⊢
    exact (by omega : rest.length + (s.port b.port).txFifo.length ≤ 32), hevents⟩
  have hreleased : ∀ r slot, NoGrowth (s.setUse b.next) (((s.setUse b.next).consumeRing r).releaseAt r slot) := fun _ _ =>
    .after (noGrowth_releaseAt ..) (.of_eq rfl rfl (.refl _) id)
  simp only [State.fetchWord]
  split
  · next hring =>
    split
    · next hrun =>
      have hlen := hfetch b hb hring hrun
      rw [hreads, List.length_cons] at hlen
      have hport : ∀ r slot q, ((((s.setUse b.next).consumeRing r).releaseAt r slot).port q) = s.port q := fun r slot q => by
        simp [State.port]
      refine joinTx_bounded _ ((hreleased _ _).bounded hnext) ?_ fun c hc _ => ?_
      · rw [hport]
        omega
      · have huse : c = { b with reads := b.reads.tail } := fetchNext_eq (by simpa using hc)
        rw [hport, huse, hreads]
        exact (by omega : rest.length + (s.port b.port).txFifo.length < 32)
    · exact (hreleased _ _).bounded hnext
  · exact hnext

theorem depositNext_not_fetch (b : DepositBurst) (c : FetchBurst) : b.next ≠ .fetch c := by
  simp only [DepositBurst.next]
  split <;> nofun

theorem noGrowth_depositWord (s : State) (b : DepositBurst) (a : Addr) (w : Word) : NoGrowth s (s.depositWord b a w) := by
  have hnext : NoGrowth s (s.setUse b.next) := noGrowth_setUse s (depositNext_not_fetch b)
  have hfilled : ∀ r slot, NoGrowth s ((({ s.setUse b.next with mem := Memory.store s.mem a true true w } : State).fillRing r).releaseAt r
      slot) := fun _ _ =>
    .after (noGrowth_releaseAt ..) (.after (t := s.setUse b.next) (.of_eq rfl rfl (.refl _) id) hnext)
  simp only [State.depositWord]
  split
  · refine .after (.of_portWork (portWork_processMarks ..) (steady_processMarks ..).fifos) ?_
    split
    · exact .after (.of_portWork (portWork_countDeposit ..) (steady_countDeposit ..).fifos) (hfilled _ _)
    · exact hfilled _ _
  · exact hnext

theorem fifosKept_frameBoundary (p : Fin 4) (fsy : List Bool) : Leads (FifosKept p) (exec (.frameBoundary p fsy)) := by
  refine leads_whenLive (.refl p) fun s _ => ?_
  split
  · exact .refl p s
  · split
    · exact .refl p s
    · exact fifosKept_boundaryAt ..

theorem fifosKept_starvation (p : Fin 4) : Leads (FifosKept p) (exec (.starvationExpiry p)) := by
  refine leads_whenLive (.refl p) fun s _ => ?_
  dsimp only
  split
  · exact fifosKept_setStream p id
  · exact .refl p s

theorem triggered_gateOpen (e : StreamEntry) : e.triggered.gateOpen = e.gateOpen := by
  rw [triggered_eq]
  split <;> rfl

theorem entry_tick_gateOpen (e : StreamEntry) : e.tick.gateOpen = e.gateOpen := by
  simp only [StreamEntry.tick]
  split <;> rfl

/-- A step that changes every stream's entry alike, but for the gates. -/
theorem NoGrowth.of_map8 {f : StreamEntry → StreamEntry} (hstreams : t.streams = map8 f s.streams)
    (hf : ∀ e, (f e).gateOpen = e.gateOpen) (hports : t.ports = s.ports) (huse : t.arb = s.arb)
    (hevents : s.events.Bounded → t.events.Bounded) : NoGrowth s t := by
  refine ⟨fun p => ?_, .of_eq (by rw [huse]), hevents⟩
  have hport : t.port p = s.port p := by rw [State.port, State.port, hports]
  refine .of_le (Nat.le_of_eq (by rw [hport])) (Nat.le_of_eq (by rw [hport])) (Nat.le_of_eq (by rw [hport])) ?_
  rw [stream_of_map8 hstreams, hf]
  exact id

theorem noGrowth_cleared (s : State) (start : StartUp) : NoGrowth s (s.cleared start) :=
  ⟨fifosKept_of_reset rfl, .of_none nofun, fun _ => ⟨Nat.zero_le _, Nat.zero_le _, nofun⟩⟩

theorem Leads.and {R R' : State → State → Prop} {o : State → Host.Outcome State Fault Refusal} (h : Leads R o)
    (h' : Leads R' o) : Leads (fun s t => R s t ∧ R' s t) o := fun s => by
  obtain ⟨t, ht, hst⟩ := h s
  exact ⟨t, ht, hst, h'.of_next ht⟩

theorem exec_queuesBounded (i : Instr) : Leads (fun s t => QueuesBounded s → QueuesBounded t) (exec i) := by
  have hkept : ∀ {o}, Leads NoGrowth o → Leads (fun s t => QueuesBounded s → QueuesBounded t) o :=
    fun h => h.mono fun _ _ h => h.bounded
  have hwork : ∀ {o} {p}, Leads (PortWork p) o → Leads (FifosKept p) o → Leads (fun s t => QueuesBounded s → QueuesBounded t) o :=
    fun h h' => hkept ((h.and h').mono fun _ _ h => .of_portWork h.1 h.2)
  cases i with
  | accessArrival c =>
    refine hkept fun s => ?_
    simp only [exec, execAccessArrival]
    split
    · exact ⟨s, rfl, .refl s⟩
    · split
      · split
        · exact ⟨_, rfl, .after (noGrowth_takeAccess ..) (.of_eq rfl rfl (.refl _) id)⟩
        · exact ⟨s, rfl, .refl s⟩
      · exact ⟨_, rfl, .after (noGrowth_setPhase ..) (.of_eq (by simp) (by simp) (.of_eq (by simp)) (by simp))⟩
  | arbiterGrant =>
    refine leads_whenLive (fun _ => id) fun s _ hs => ?_
    split
    · exact grant_bounded hs
    · exact hs
  | passageComplete =>
    refine hkept (leads_whenLive .refl fun s _ => ?_)
    split
    · exact .after (noGrowth_makeEffect ..) (.of_eq (by simp) (by simp) (.of_none (by simp)) (by simp))
    · exact .refl s
  | holdExpiry =>
    refine hkept (leads_whenLive .refl fun s _ => ?_)
    split
    · exact noGrowth_expire ..
    · exact .refl s
  | fetchWordComplete =>
    refine leads_whenLive (fun _ => id) fun s _ hs => ?_
    split
    · next b hb =>
      split
      · next a rest hreads => exact fetchWord_bounded hb hreads hs
      · exact (noGrowth_setUse (u := .free) s nofun).bounded hs
    · exact hs
  | depositWordComplete =>
    refine hkept (leads_whenLive .refl fun s _ => ?_)
    split
    · split
      · exact noGrowth_depositWord ..
      · exact .of_eq rfl rfl (.of_none nofun) id
    · exact .refl s
  | rxStoppingDrained p =>
    exact hwork (rxStoppingDrained_portWork p) (leads_whenLive (.refl p) fun s _ => .ite (fifosKept_endRun ..) (.refl p s))
  | rxRunComplete p =>
    exact hwork (rxRunComplete_portWork p) (leads_whenLive (.refl p) fun s _ => .ite (fifosKept_endRun ..) (.refl p s))
  | commandRecordRead =>
    refine hkept (leads_whenLive .refl fun s _ => ?_)
    split
    · exact .of_eq rfl rfl (.of_none nofun) id
    · exact .refl s
  | commandResultWritten =>
    refine hkept (leads_whenLive .refl fun s _ => ?_)
    split
    · next ws r res _ _ =>
      have hresult : ∀ u : State, NoGrowth u (u.afterResult r) := fun u => by
        simp only [State.afterResult]
        split <;> exact .of_eq rfl rfl (.refl _) id
      have htake : ∀ u : State, NoGrowth u { u with cmd := { u.cmd with state := .waiting } }.takeCommand := fun u =>
        .of_eq (by simp) (by simp) (.of_eq (by simp)) (by simp)
      exact .after (htake _) (.after (hresult _) (.after (noGrowth_releaseAt ..) (.of_eq rfl rfl (.of_none nofun) id)))
    · exact .refl s
  | eventRecordWritten =>
    refine hkept (leads_whenLive .refl fun s _ => ?_)
    split
    · refine .of_eq rfl rfl (.of_none nofun) ?_
      simp only [EventUnit.recordWritten]
      split <;> exact id
    · exact .refl s
  | intPulseEnd => exact hkept (leads_whenLive .refl fun s _ => .of_eq rfl rfl (.refl _) id)
  | identityFirstBurstComplete =>
    refine hkept (leads_whenLive .refl fun s _ => ?_)
    split
    · exact .of_eq rfl rfl (.of_none nofun) id
    · exact .refl s
  | identityBurstComplete =>
    refine hkept (leads_whenLive .refl fun s _ => ?_)
    split
    · refine .of_eq (by simp [State.raiseStarted, State.raisePart, State.landBurst])
        (by simp [State.raiseStarted, State.raisePart, State.landBurst])
        (.of_none (by simp [State.raiseStarted, State.raisePart, State.landBurst])) fun h => ?_
      rw [(enterOperating_keeps _).2.2.2.2.2.2.2.2.2.2]
      exact h.raise _
    · exact .refl s
  | frameBoundary p fsy => exact hwork (frameBoundary_portWork p fsy) (fifosKept_frameBoundary p fsy)
  | lateFrame p => exact hwork (lateFrame_portWork p) ((steady_lateFrame p).mono fun _ _ h => h.fifos)
  | channelSlotStart p => exact hwork (channelSlotStart_portWork p) ((steady_channelSlotStart p).mono fun _ _ h => h.fifos)
  | rxChannelWordComplete p sdi =>
    exact hwork (rxChannelWordComplete_portWork p sdi) ((steady_rxChannelWordComplete p sdi).mono fun _ _ h => h.fifos)
  | starvationExpiry p => exact hwork (starvationExpiry_portWork p) (fifosKept_starvation p)
  | trigEdge =>
    refine hkept (leads_whenLive .refl fun s _ => ?_)
    split
    · exact .refl s
    · exact .of_map8 rfl triggered_gateOpen rfl rfl fun h => h.raise _
  | tagclkEdge =>
    refine hkept (leads_whenLive .refl fun s _ => ?_)
    split <;> exact .of_eq rfl rfl (.refl _) id
  | internalTimeTagIncrease =>
    refine hkept (leads_whenLive .refl fun s _ => ?_)
    split <;> exact .of_eq rfl rfl (.refl _) id
  | rstFall =>
    refine hkept fun s => ?_
    simp only [exec, execRstFall]
    split
    · exact ⟨s, rfl, .refl s⟩
    all_goals exact ⟨_, rfl, fifosKept_of_reset rfl, .of_none nofun, fun _ => ⟨Nat.zero_le _, Nat.zero_le _, nofun⟩⟩
  | rstRise b q =>
    refine hkept fun s => ?_
    simp only [exec, execRstRise]
    split
    · exact ⟨_, rfl, noGrowth_cleared ..⟩
    all_goals exact ⟨s, rfl, .refl s⟩
  | pcsOrStrobesHigh =>
    refine hkept fun s => ?_
    simp only [exec, execPcsOrStrobesHigh]
    split <;> exact ⟨_, rfl, .of_eq rfl rfl (.refl _) id⟩
  | _ => exact hkept (noGrowth_commandRows (by simp [commandRows, commandTable]))

theorem noGrowth_tick (s : State) : NoGrowth s s.tick := by
  simp only [State.tick]
  split
  · exact .of_map8 rfl entry_tick_gateOpen rfl rfl id
  · exact .refl s

end Chain

end Sys2Proof.Machine

namespace Sys2Proof.Proofs

open Sys2Proof Sys2Proof.Machine Sys2Proof.Claims

/-- Settles O59: every command and a microsecond keep the bounds, and the definitions in range. -/
theorem queuesStayBounded : Obligations.QueuesStayBounded :=
  ⟨fun _ _ hs hstep => step_keeps (P := QueuesBounded) (fun _ _ => id) (fun s => (noGrowth_tick s).bounded) exec_queuesBounded hs
    hstep, fun _ _ => step_definitionsInRange⟩

end Sys2Proof.Proofs

/-! PROOF. Every ring stays in order (R23). A posting is judged against a ring with room and a consumption against a ring with a
filled slot, and only the owner of the other side changes the ring meanwhile; an engine burst is granted against slots that stay as
they are until its words complete; a recreated ring has no claims on it (R35). -/

namespace Sys2Proof.Machine

open Sys2Proof Sys2Proof.Claims

/-! ### Ring values -/

theorem nextSlot_eq_mod {count i : Nat} (h : i < count) : nextSlot count i = (i + 1) % count := by
  simp only [nextSlot]
  split
  · next h' => exact (Nat.mod_eq_of_lt h').symm
  · next h' =>
    rw [show i + 1 = count by omega, Nat.mod_self]

theorem ringInOrder_filled {count : Nat} {v : Ring} (h : RingInOrder count v) (hroom : v.fill < count) :
    RingInOrder count (v.filled count) := by
  have hpos : count ≠ 0 := by omega
  simp only [RingInOrder, if_neg hpos] at h ⊢
  obtain ⟨hproducer, hconsumer, -, hdistance⟩ := h
  refine ⟨nextSlot_lt _ _ (by omega), hconsumer, hroom, ?_⟩
  calc nextSlot count v.producer = (v.producer + 1) % count := nextSlot_eq_mod hproducer
    _ = (v.consumer + (v.fill + 1)) % count := by rw [hdistance, Nat.mod_add_mod, Nat.add_assoc]

theorem ringInOrder_consumed {count : Nat} {v : Ring} (h : RingInOrder count v) (hfilled : 0 < v.fill) :
    RingInOrder count (v.consumed count) := by
  simp only [RingInOrder] at h ⊢
  split at h
  · omega
  · next hpos =>
    obtain ⟨hproducer, hconsumer, hfill, hdistance⟩ := h
    rw [if_neg hpos]
    refine ⟨hproducer, nextSlot_lt _ _ (by omega), Nat.le_trans (Nat.sub_le _ _) hfill, ?_⟩
    calc v.producer = (v.consumer + v.fill) % count := hdistance
      _ = (v.consumer + 1 + (v.fill - 1)) % count := by congr 1; omega
      _ = (nextSlot count v.consumer + (v.fill - 1)) % count := by rw [nextSlot_eq_mod hconsumer, Nat.mod_add_mod]

theorem ringInOrder_fresh (count : Nat) (lap : Option Word) : RingInOrder count (Ring.fresh lap) := by
  simp only [RingInOrder]
  split
  · exact ⟨rfl, rfl, rfl⟩
  · exact ⟨by simp only [Ring.fresh]; omega, by simp only [Ring.fresh]; omega, Nat.zero_le _, (Nat.zero_mod _).symm⟩

/-! ### Claims -/

/-- What the effect will do to a ring is possible. -/
structure EffectClaim (s : State) (e : Effect) : Prop where
  post : ∀ r, e = .post r → r.supply = true ∧ (s.ring r).fill < s.slotCount r
  consume : ∀ r, e = .consume r → r.supply = false ∧ 0 < (s.ring r).fill

theorem effectClaim_none (s : State) : EffectClaim s .none := ⟨nofun, nofun⟩

theorem effectClaim_order (s : State) (n : Fin 8) (slot : Nat) : EffectClaim s (.order n slot) := ⟨nofun, nofun⟩

theorem pathClaim_iff (s : State) : PathClaim s ↔ ∀ a e, s.path.phase = .forwarded a e → EffectClaim s e :=
  ⟨fun ⟨hpost, hconsume⟩ a _ h => ⟨fun r hr => hpost a r (hr ▸ h), fun r hr => hconsume a r (hr ▸ h)⟩,
    fun h => ⟨fun a r hr => (h a _ hr).post r rfl, fun a r hr => (h a _ hr).consume r rfl⟩⟩

/-- What the Ring Tracker lets pass is possible (R26, R31). -/
theorem judge_claim {s : State} {a : Access} {r : RingId} {slot w : Nat} {e : Effect} (h : s.judge a r slot w = .pass e) :
    EffectClaim s e := by
  simp only [State.judge] at h
  split at h
  · next hsupply =>
    split at h
    · simp only [State.judgeWrite] at h
      split at h
      · split at h
        · next hroom =>
          cases h
          exact ⟨fun x hx => by cases hx; exact ⟨hsupply, hroom⟩, nofun⟩
        · cases h
      · split at h
        · cases h
          exact effectClaim_none s
        · split at h
          · cases h
            exact effectClaim_order ..
          all_goals
            cases h
            exact effectClaim_none s
    · cases h
      exact effectClaim_none s
  · next hsupply =>
    split at h
    · simp only [State.judgeRead] at h
      split at h
      · split at h
        · split at h
          · cases h
          all_goals
            split at h
            · cases h
            · cases h
              exact effectClaim_none s
        · next hfill =>
          split at h
          · cases h
            exact ⟨nofun, fun x hx => by cases hx; exact ⟨Bool.eq_false_iff.2 hsupply, Nat.pos_of_ne_zero hfill⟩⟩
          · cases h
            exact effectClaim_none s
      · cases h
        exact effectClaim_none s
    · cases h
      exact effectClaim_none s

/-- A deposit burst in `v` is the one in `u`, at the same word, and stands no firmer. -/
def DepositKept (u v : PortUse) : Prop :=
  ∀ b, v = .deposit b → ∃ a, u = .deposit a ∧ a.port = b.port ∧ a.writes = b.writes ∧ (b.ringStands = true → a.ringStands = true)

/-- No burst in `v` claims what none in `u` claims. -/
structure BurstKept (u v : PortUse) : Prop where
  fetch : FetchKept u v
  deposit : DepositKept u v
  record : ∀ ws, v = .eventRecord ws → u = .eventRecord ws

theorem BurstKept.refl (u : PortUse) : BurstKept u u := ⟨.refl u, fun b h => ⟨b, h, rfl, rfl, id⟩, fun _ => id⟩

theorem BurstKept.of_eq {u v : PortUse} (h : v = u) : BurstKept u v := h ▸ .refl u

theorem BurstKept.trans {u v w : PortUse} (h : BurstKept u v) (h' : BurstKept v w) : BurstKept u w := by
  refine ⟨h.fetch.trans h'.fetch, fun c hc => ?_, fun ws hws => h.record ws (h'.record ws hws)⟩
  obtain ⟨b, hb, hport', hwrites', hring'⟩ := h'.deposit c hc
  obtain ⟨a, ha, hport, hwrites, hring⟩ := h.deposit b hb
  exact ⟨a, ha, hport.trans hport', hwrites.trans hwrites', fun hs => hring (hring' hs)⟩

/-- No burst that claims a ring is under way. -/
structure NoBurstClaim (u : PortUse) : Prop where
  fetch : ∀ b, u ≠ .fetch b
  deposit : ∀ b, u ≠ .deposit b
  record : ∀ ws, u ≠ .eventRecord ws

theorem noBurstClaim_free : NoBurstClaim .free := ⟨nofun, nofun, nofun⟩

theorem NoBurstClaim.kept {u v : PortUse} (h : NoBurstClaim v) : BurstKept u v :=
  ⟨.of_none h.fetch, fun b hb => absurd hb (h.deposit b), fun ws hws => absurd hws (h.record ws)⟩

theorem burstKept_afterRun (u : PortUse) (n : Fin 8) : BurstKept u (u.afterRun n) := by
  refine ⟨fetchKept_afterRun u n, fun b hb => ?_, fun ws hws => ?_⟩
  · cases u with
    | deposit a =>
      simp only [PortUse.afterRun] at hb
      split at hb <;> cases hb
      · exact ⟨a, rfl, rfl, rfl, id⟩
      · exact ⟨b, rfl, rfl, rfl, id⟩
    | fetch a =>
      simp only [PortUse.afterRun] at hb
      split at hb <;> cases hb
    | _ => cases hb
  · cases u with
    | eventRecord xs => exact hws
    | deposit a =>
      simp only [PortUse.afterRun] at hws
      split at hws <;> cases hws
    | fetch a =>
      simp only [PortUse.afterRun] at hws
      split at hws <;> cases hws
    | _ => cases hws

theorem burstKept_afterRuns (u : PortUse) (ns : List (Fin 8)) : BurstKept u (u.afterRuns ns) := by
  induction ns generalizing u with
  | nil => exact .refl u
  | cons n ns ih => exact (burstKept_afterRun u n).trans (ih _)

theorem burstKept_dropClaims (s : State) (n : Fin 8) : BurstKept s.arb.use (s.dropClaims n).arb.use := by
  refine ⟨fetchKept_dropClaims s n, fun b hb => ?_, fun ws hws => ?_⟩
  · rw [dropClaims_use] at hb
    split at hb
    · split at hb <;> cases hb
    · next a ha =>
      split at hb <;> cases hb
      · exact ⟨a, ha, rfl, rfl, nofun⟩
      · exact ⟨b, ha, rfl, rfl, id⟩
    · exact ⟨b, hb, rfl, rfl, id⟩
  · rw [dropClaims_use] at hws
    split at hws
    · split at hws <;> cases hws
    · split at hws <;> cases hws
    · exact hws

/-! ### Steps that change no ring -/

/-- The rings and their slot counts stand, and what claims them now is possible or claimed them before. -/
structure RingsKept (s t : State) : Prop where
  ring : ∀ r, t.ring r = s.ring r
  count : ∀ r, t.slotCount r = s.slotCount r
  path : ∀ a e, t.path.phase = .forwarded a e → s.path.phase = .forwarded a e ∨ EffectClaim s e
  use : BurstKept s.arb.use t.arb.use
  command : t.cmd.state ≠ .waiting → s.cmd.state ≠ .waiting ∨ 0 < (s.ring .command).fill

/-- The rings are in order, and the accesses and bursts under way find what they need. -/
def RingClaims (s : State) : Prop := (∀ r, RingInOrder (s.slotCount r) (s.ring r)) ∧ PathClaim s ∧ BurstClaim s

theorem ringsInOrder_iff (s : State) : RingsInOrder s ↔ RingClaims s ∧ CommandClaim s :=
  ⟨fun ⟨h1, h2, h3, h4⟩ => ⟨⟨h1, h2, h3⟩, h4⟩, fun ⟨⟨h1, h2, h3⟩, h4⟩ => ⟨h1, h2, h3, h4⟩⟩

section Chain

variable {p : Fin 4} {s t u : State}

theorem EffectClaim.transport {e : Effect} (h : EffectClaim s e) (hring : ∀ r, t.ring r = s.ring r)
    (hcount : ∀ r, t.slotCount r = s.slotCount r) : EffectClaim t e :=
  ⟨fun r hr => by rw [hring, hcount]; exact h.post r hr, fun r hr => by rw [hring]; exact h.consume r hr⟩

theorem RingsKept.refl (s : State) : RingsKept s s := ⟨fun _ => rfl, fun _ => rfl, fun _ _ => .inl, .refl _, .inl⟩

theorem RingsKept.trans (h : RingsKept s t) (h' : RingsKept t u) : RingsKept s u := by
  refine ⟨fun r => (h'.ring r).trans (h.ring r), fun r => (h'.count r).trans (h.count r), fun a e hu => ?_, h.use.trans h'.use,
    fun hu => ?_⟩
  · obtain ht | ht := h'.path a e hu
    · exact h.path a e ht
    · exact .inr (ht.transport (fun r => (h.ring r).symm) fun r => (h.count r).symm)
  · obtain ht | ht := h'.command hu
    · exact h.command ht
    · exact .inr (h.ring .command ▸ ht)

theorem RingsKept.after (h' : RingsKept t u) (h : RingsKept s t) : RingsKept s u := h.trans h'

theorem slotCount_of_active (h : ∀ n, (t.stream n).active = (s.stream n).active) (r : RingId) : t.slotCount r = s.slotCount r := by
  cases r with
  | stream n => simp only [State.slotCount, h n]
  | _ => rfl

theorem ring_of_rings (h : t.rings = s.rings) (r : RingId) : t.ring r = s.ring r := by
  rw [State.ring, State.ring, h]

theorem RingsKept.of_defs (hrings : t.rings = s.rings) (hdefs : DefsKept s t)
    (hpath : ∀ a e, t.path.phase = .forwarded a e → s.path.phase = .forwarded a e ∨ EffectClaim s e)
    (huse : BurstKept s.arb.use t.arb.use) (hcmd : t.cmd.state = s.cmd.state) : RingsKept s t :=
  ⟨ring_of_rings hrings, slotCount_of_active hdefs.streams, hpath, huse, fun h => .inl (hcmd ▸ h)⟩

/-- Rings, streams, Path Unit and memory port stand. -/
theorem RingsKept.of_eq (hrings : t.rings = s.rings) (hstreams : t.streams = s.streams) (hpath : t.path.phase = s.path.phase)
    (huse : BurstKept s.arb.use t.arb.use) (hcmd : t.cmd.state ≠ .waiting → s.cmd.state ≠ .waiting) : RingsKept s t :=
  ⟨ring_of_rings hrings, slotCount_of_active fun n => by rw [State.stream, State.stream, hstreams],
    fun _ _ h => .inl (hpath ▸ h), huse, fun h => .inl (hcmd h)⟩

theorem RingsKept.of_portWork (h : PortWork p s t) : RingsKept s t := by
  obtain ⟨-, hpath, -, hrings, -, -, hcmd, -, -, -, -⟩ := h.frame
  obtain ⟨ns, hns⟩ := h.use
  exact .of_defs hrings (.of_portWork h) (fun _ _ h => .inl (hpath ▸ h)) (hns ▸ burstKept_afterRuns _ ns) (by rw [hcmd])

theorem RingsKept.claims (h : RingsKept s t) (hs : RingClaims s) : RingClaims t := by
  obtain ⟨horder, hpath, hfetch, hdeposit, hrecord⟩ := hs
  refine ⟨fun r => by rw [h.ring, h.count]; exact horder r, (pathClaim_iff t).2 fun a e ht => ?_, fun b hb hring => ?_,
    fun b hb hring => ?_, fun ws hws => ?_⟩
  · have hclaim : EffectClaim s e := (h.path a e ht).elim ((pathClaim_iff s).1 hpath a e) id
    exact hclaim.transport h.ring h.count
  · obtain ⟨a, ha, hport, hreads, hring', -⟩ := h.use.fetch b hb
    have hlen := hfetch a ha (hring' hring)
    rwa [hport, hreads, ← h.ring] at hlen
  · obtain ⟨a, ha, hport, hwrites, hring'⟩ := h.use.deposit b hb
    have hlen := hdeposit a ha (hring' hring)
    rwa [hport, hwrites, ← h.ring, ← h.count] at hlen
  · rw [h.ring]
    exact hrecord ws (h.use.record ws hws)

theorem RingsKept.commandClaim (h : RingsKept s t) (hs : CommandClaim s) : CommandClaim t := fun ht => by
  rw [h.ring]
  exact (h.command ht).elim hs id

theorem RingsKept.inOrder (h : RingsKept s t) (hs : RingsInOrder s) : RingsInOrder t := by
  rw [ringsInOrder_iff] at hs ⊢
  exact ⟨h.claims hs.1, h.commandClaim hs.2⟩

/-! ### Fills, consumptions and recreated rings -/

theorem slotCount_setRing (s : State) (r x : RingId) (v : Ring) : (s.setRing r v).slotCount x = s.slotCount x :=
  slotCount_of_active (fun _ => rfl) x

/-- A fill finds room, and no claim that it could break (R35, R37, R40). -/
theorem ringClaims_fillRing {r : RingId} (hs : RingClaims s) (hroom : (s.ring r).fill < s.slotCount r)
    (hpath : ∀ a, s.path.phase ≠ .forwarded a (.post r))
    (hdeposit : ∀ b, s.arb.use = .deposit b → b.ringStands = true → RingId.stream (rxOf b.port) = r →
      b.writes.length + (s.ring r).fill < s.slotCount r)
    (hrecord : ∀ ws, s.arb.use = .eventRecord ws → r ≠ .event) : RingClaims (s.fillRing r) := by
  obtain ⟨horder, hclaim, hfetch, hdeposit', hrecord'⟩ := hs
  have hsame : (s.fillRing r).ring r = (s.ring r).filled (s.slotCount r) := setRing_ring_same ..
  have hother : ∀ x, x ≠ r → (s.fillRing r).ring x = s.ring x := fun x hx => setRing_ring_other _ _ _ _ hx
  have hcount : ∀ x, (s.fillRing r).slotCount x = s.slotCount x := fun x => slotCount_setRing ..
  have hgrow : ∀ x, (s.ring x).fill ≤ ((s.fillRing r).ring x).fill := fun x => by
    by_cases hx : x = r
    · rw [hx, hsame]
      exact Nat.le_succ _
    · exact Nat.le_of_eq (by rw [hother x hx])
  rw [pathClaim_iff] at hclaim
  refine ⟨fun x => ?_, (pathClaim_iff _).2 fun a e ht => ⟨fun x hx => ?_, fun x hx => ?_⟩, fun b hb hring => ?_,
    fun b hb hring => ?_, fun ws hws => ?_⟩
  · rw [hcount]
    by_cases hx : x = r
    · rw [hx, hsame]
      exact ringInOrder_filled (horder r) hroom
    · rw [hother x hx]
      exact horder x
  · have hne : x ≠ r := fun hxr => hpath a (hxr ▸ hx ▸ ht)
    rw [hother x hne, hcount]
    exact (hclaim a e ht).post x hx
  · obtain ⟨hsupply, hpos⟩ := (hclaim a e ht).consume x hx
    exact ⟨hsupply, Nat.lt_of_lt_of_le hpos (hgrow x)⟩
  · exact Nat.le_trans (hfetch b hb hring) (hgrow _)
  · rw [hcount]
    by_cases hx : RingId.stream (rxOf b.port) = r
    · have hlen := hdeposit b hb hring hx
      rw [hx, hsame]
      exact hlen
    · rw [hother _ hx]
      exact hdeposit' b hb hring
  · rw [hother _ (hrecord ws hws).symm]
    exact hrecord' ws hws

/-- A consumption finds a filled slot, and no claim that it could break. -/
theorem ringClaims_consumeRing {r : RingId} (hs : RingClaims s) (hfilled : 0 < (s.ring r).fill)
    (hpath : ∀ a, s.path.phase ≠ .forwarded a (.consume r))
    (hfetch : ∀ b, s.arb.use = .fetch b → b.ringStands = true → RingId.stream (txOf b.port) = r →
      b.reads.length < (s.ring r).fill) : RingClaims (s.consumeRing r) := by
  obtain ⟨horder, hclaim, hfetch', hdeposit, hrecord⟩ := hs
  have hsame : (s.consumeRing r).ring r = (s.ring r).consumed (s.slotCount r) := setRing_ring_same ..
  have hother : ∀ x, x ≠ r → (s.consumeRing r).ring x = s.ring x := fun x hx => setRing_ring_other _ _ _ _ hx
  have hcount : ∀ x, (s.consumeRing r).slotCount x = s.slotCount x := fun x => slotCount_setRing ..
  have hshrink : ∀ x, ((s.consumeRing r).ring x).fill ≤ (s.ring x).fill := fun x => by
    by_cases hx : x = r
    · rw [hx, hsame]
      exact Nat.sub_le _ _
    · exact Nat.le_of_eq (by rw [hother x hx])
  rw [pathClaim_iff] at hclaim
  refine ⟨fun x => ?_, (pathClaim_iff _).2 fun a e ht => ⟨fun x hx => ?_, fun x hx => ?_⟩, fun b hb hring => ?_,
    fun b hb hring => ?_, fun ws hws => Nat.lt_of_le_of_lt (hshrink _) (hrecord ws hws)⟩
  · rw [hcount]
    by_cases hx : x = r
    · rw [hx, hsame]
      exact ringInOrder_consumed (horder r) hfilled
    · rw [hother x hx]
      exact horder x
  · obtain ⟨hsupply, hroom⟩ := (hclaim a e ht).post x hx
    exact ⟨hsupply, by rw [hcount]; exact Nat.lt_of_le_of_lt (hshrink x) hroom⟩
  · have hne : x ≠ r := fun hxr => hpath a (hxr ▸ hx ▸ ht)
    rw [hother x hne]
    exact (hclaim a e ht).consume x hx
  · by_cases hx : RingId.stream (txOf b.port) = r
    · have hlen := hfetch b hb hring hx
      rw [hx, hsame]
      exact Nat.le_sub_one_of_lt hlen
    · rw [hother _ hx]
      exact hfetch' b hb hring
  · rw [hcount]
    exact Nat.le_trans (Nat.add_le_add_left (hshrink _) _) (hdeposit b hb hring)

/-- Nothing under way acts on the ring of stream n. -/
structure Unclaimed (s : State) (n : Fin 8) : Prop where
  path : ∀ a e, s.path.phase = .forwarded a e → e.onStream n = false
  fetch : ∀ b, s.arb.use = .fetch b → txOf b.port = n → b.ringStands = false
  deposit : ∀ b, s.arb.use = .deposit b → rxOf b.port = n → b.ringStands = false

theorem ne_stream_of_onStream {e : Effect} {n : Fin 8} (h : e.onStream n = false) :
    e ≠ .post (.stream n) ∧ e ≠ .consume (.stream n) :=
  ⟨fun he => by simp [he, Effect.onStream] at h, fun he => by simp [he, Effect.onStream] at h⟩

/-- Rings that are recreated with nothing claiming them, the others as they were (R35, R44, R47). -/
theorem ringsInOrder_renewed (hs : RingsInOrder s) (renewed : Fin 8 → Prop)
    (hnew : ∀ n, renewed n → t.ring (.stream n) = Ring.fresh (some 0) ∧ Unclaimed s n)
    (hold : ∀ n, ¬ renewed n → t.ring (.stream n) = s.ring (.stream n) ∧ t.slotCount (.stream n) = s.slotCount (.stream n))
    (hcommand : t.ring .command = s.ring .command) (hevent : t.ring .event = s.ring .event)
    (hpath : t.path.phase = s.path.phase) (huse : t.arb.use = s.arb.use) (hcmd : t.cmd.state = s.cmd.state) :
    RingsInOrder t := by
  obtain ⟨horder, hclaim, ⟨hfetch, hdeposit, hrecord⟩, hcommandClaim⟩ := hs
  rw [pathClaim_iff] at hclaim
  have hstream : ∀ x a e, s.path.phase = .forwarded a e → (e = .post x ∨ e = .consume x) →
      t.ring x = s.ring x ∧ t.slotCount x = s.slotCount x := fun x a e ht he => by
    cases x with
    | command => exact ⟨hcommand, rfl⟩
    | event => exact ⟨hevent, rfl⟩
    | stream n =>
      refine hold n fun hn => ?_
      obtain ⟨hpost, hconsume⟩ := ne_stream_of_onStream ((hnew n hn).2.path a e ht)
      exact he.elim hpost hconsume
  refine ⟨fun x => ?_, (pathClaim_iff _).2 fun a e ht => ⟨fun x hx => ?_, fun x hx => ?_⟩, ⟨fun b hb hring => ?_,
    fun b hb hring => ?_, fun ws hws => ?_⟩, fun hstate => ?_⟩
  · cases x with
    | command => rw [hcommand]; exact horder .command
    | event => rw [hevent]; exact horder .event
    | stream n =>
      by_cases hn : renewed n
      · rw [(hnew n hn).1]
        exact ringInOrder_fresh ..
      · obtain ⟨hring, hcount⟩ := hold n hn
        rw [hring, hcount]
        exact horder _
  · rw [hpath] at ht
    obtain ⟨hring, hcount⟩ := hstream x a e ht (.inl hx)
    rw [hring, hcount]
    exact (hclaim a e ht).post x hx
  · rw [hpath] at ht
    rw [(hstream x a e ht (.inr hx)).1]
    exact (hclaim a e ht).consume x hx
  · rw [huse] at hb
    have hn : ¬ renewed (txOf b.port) := fun hn => by simp [(hnew _ hn).2.fetch b hb rfl] at hring
    rw [(hold _ hn).1]
    exact hfetch b hb hring
  · rw [huse] at hb
    have hn : ¬ renewed (rxOf b.port) := fun hn => by simp [(hnew _ hn).2.deposit b hb rfl] at hring
    obtain ⟨hring', hcount⟩ := hold _ hn
    rw [hring', hcount]
    exact hdeposit b hb hring
  · rw [huse] at hws
    rw [hevent]
    exact hrecord ws hws
  · rw [hcmd] at hstate
    rw [hcommand]
    exact hcommandClaim hstate

/-! ### APPLY and RESET PART -/

theorem ringsKept_setPhase {ph : PathPhase} (h : ∀ a e, ph = .forwarded a e → EffectClaim s e) : RingsKept s (s.setPhase ph) :=
  ⟨fun _ => rfl, fun _ => rfl, fun a e ht => .inr (h a e ht), .refl _, .inl⟩

theorem ringsKept_forward {e : Effect} (a : Access) (h : EffectClaim s e) : RingsKept s (s.forward a e) :=
  ringsKept_setPhase fun _ _ ht => by cases ht; exact h

theorem ringsKept_dropClaims (s : State) (n : Fin 8) : RingsKept s (s.dropClaims n) := by
  refine ⟨fun _ => rfl, fun _ => rfl, fun a e ht => ?_, burstKept_dropClaims s n, .inl⟩
  rw [dropClaims_phase] at ht
  split at ht
  · split at ht <;> cases ht
    · exact .inr (effectClaim_none s)
    · next h => exact .inl (by assumption)
  · exact .inl ht

/-- After the claims are dropped there are none, whatever is dropped then. -/
theorem unclaimed_dropClaims (s : State) (n : Fin 8) : Unclaimed (s.dropClaims n) n := by
  refine ⟨fun a e ht => ?_, fun b hb hn => ?_, fun b hb hn => ?_⟩
  · rw [dropClaims_phase] at ht
    split at ht
    · split at ht <;> cases ht
      · rfl
      · next h _ => exact Bool.eq_false_iff.2 h
    · next hne => exact absurd ht (hne a e)
  · rw [dropClaims_use] at hb
    split at hb
    · split at hb <;> cases hb
      · rfl
      · next h => exact absurd hn h
    · split at hb <;> cases hb
    · next hne _ => exact absurd hb (hne b)
  · rw [dropClaims_use] at hb
    split at hb
    · split at hb <;> cases hb
    · split at hb <;> cases hb
      · rfl
      · next h => exact absurd hn h
    · next _ hne => exact absurd hb (hne b)

theorem Unclaimed.dropClaims {n : Fin 8} (h : Unclaimed s n) (m : Fin 8) : Unclaimed (s.dropClaims m) n := by
  have huse := burstKept_dropClaims s m
  refine ⟨fun a e ht => ?_, fun b hb hn => ?_, fun b hb hn => ?_⟩
  · rw [dropClaims_phase] at ht
    split at ht
    · split at ht <;> cases ht
      · rfl
      · next hp => exact h.path _ _ hp
    · exact h.path a e ht
  · obtain ⟨a, ha, hport, -, hring, -⟩ := huse.fetch b hb
    exact Bool.eq_false_iff.2 fun hs => by simp [h.fetch a ha (hport ▸ hn), hs] at hring
  · obtain ⟨a, ha, hport, -, hring⟩ := huse.deposit b hb
    exact Bool.eq_false_iff.2 fun hs => by simp [h.deposit a ha (hport ▸ hn), hs] at hring

theorem ringsKept_emptyFifo (s : State) (n : Fin 8) : RingsKept s (s.emptyFifo n) := by
  simp only [State.emptyFifo]
  split <;> exact .of_eq rfl rfl rfl (.refl _) id

theorem ringsKept_quietDetector (s : State) (p : Fin 4) : RingsKept s (s.quietDetector p) := .of_eq rfl rfl rfl (.refl _) id

/-- The held access is held on, forwarded without an effect, or judged again (R45, R46). -/
theorem ringsKept_rejudgeHeld (s : State) (n : Fin 8) : RingsKept s (s.rejudgeHeld n) := by
  simp only [State.rejudgeHeld]
  split
  · split
    · split
      · exact ringsKept_forward _ (effectClaim_none s)
      · split
        · split
          · exact ringsKept_setPhase nofun
          · split
            · next h => exact ringsKept_forward _ (judge_claim h)
            · exact .refl s
            · exact .refl s
        · exact ringsKept_forward _ (effectClaim_none s)
    · exact .refl s
  · exact .refl s

theorem ringsInOrder_applyStream (s : State) (n : Fin 8) (hs : RingsInOrder s) : RingsInOrder (s.applyStream n) := by
  have hnew : ∀ e, RingsInOrder (((s.dropClaims n).setStream n e).setRing (.stream n) (Ring.fresh (some 0))) := fun e => by
    refine ringsInOrder_renewed ((ringsKept_dropClaims s n).inOrder hs) (· = n) (fun m hm => ?_) (fun m hm => ?_) rfl rfl rfl rfl rfl
    · exact ⟨hm ▸ setRing_ring_same .., hm ▸ unclaimed_dropClaims s n⟩
    · refine ⟨setRing_ring_other _ _ _ _ (fun h => hm (RingId.stream.inj h)), ?_⟩
      rw [slotCount_setRing]
      simp only [State.slotCount, setStream_stream_other _ _ _ _ hm]
  have hempty := fun e => (ringsKept_emptyFifo _ n).inOrder (hnew e)
  refine (ringsKept_rejudgeHeld _ n).inOrder ?_
  split
  · exact hempty _
  · exact (ringsKept_quietDetector ..).inOrder (hempty _)

theorem foldl_keeps {α : Type} {P : State → Prop} {f : State → α → State} (hf : ∀ s a, P s → P (f s a)) (l : List α)
    (s : State) (h : P s) : P (l.foldl f s) :=
  foldl_rel (R := fun s t => P s → P t) (fun _ => id) (fun _ _ _ h h' hs => h' (h hs)) hf l s h

theorem ringsInOrder_applyAll (s : State) (o : ObjectSet) (hs : RingsInOrder s) : RingsInOrder (s.applyAll o) := by
  have hkept : ∀ {α : Type} {f : State → α → State}, (∀ s a, RingsKept s (f s a)) → ∀ l s, RingsInOrder s →
      RingsInOrder (List.foldl f s l) := fun hf => foldl_keeps fun s a => (hf s a).inOrder
  have hports := hkept (f := State.applyPort) (fun _ _ => .of_eq rfl rfl rfl (.refl _) id) (allPorts.filter o.port) s hs
  have hstreams := foldl_keeps ringsInOrder_applyStream (allStreams.filter o.stream) _ hports
  exact hkept (f := State.applyWatch) (fun _ _ => .of_eq rfl rfl rfl (.refl _) id) _ _
    (hkept (f := State.applyDetector) (fun _ _ => .of_eq rfl rfl rfl (.refl _) id) _ _ hstreams)

theorem ringsKept_endStreams (s : State) : RingsKept s s.endStreams :=
  foldl_rel RingsKept.refl (fun _ _ _ => .trans) (fun s _ => .of_portWork (portWork_abortStream rfl s .reset)) allStreams s

theorem unclaimed_dropAll (l : List (Fin 8)) (s : State) {n : Fin 8} (h : n ∈ l ∨ Unclaimed s n) :
    Unclaimed (l.foldl State.dropClaims s) n := by
  induction l generalizing s with
  | nil => exact h.resolve_left (List.not_mem_nil)
  | cons m l ih =>
    refine ih _ ?_
    obtain hmem | hs := h
    · obtain rfl | hmem := List.mem_cons.1 hmem
      · exact .inr (unclaimed_dropClaims s n)
      · exact .inl hmem
    · exact .inr (hs.dropClaims m)

theorem ringsInOrder_removeDefinitions (hs : RingsInOrder s) : RingsInOrder s.removeDefinitions := by
  have hdrop : RingsKept s (allStreams.foldl State.dropClaims s) :=
    foldl_rel RingsKept.refl (fun _ _ _ => .trans) ringsKept_dropClaims allStreams s
  refine ringsInOrder_renewed (hdrop.inOrder hs) (fun _ => True) (fun n _ => ⟨?_, unclaimed_dropAll _ s (.inl (mem_allStreams n))⟩)
    (fun _ h => absurd trivial h) rfl rfl rfl rfl rfl
  simp [State.removeDefinitions, State.ring, RingTable.get, State.reset]

theorem ringsKept_passThrough (s : State) : RingsKept s s.passThrough := by
  simp only [State.passThrough]
  split
  · exact ringsKept_forward _ (effectClaim_none s)
  · exact .refl s

theorem CommandEffect.ringsInOrder {i : Instr} (h : CommandEffect i s t) (hs : RingsInOrder s) : RingsInOrder t := by
  have hwork : ∀ {p u}, PortWork p s u → RingsInOrder u := fun h => (RingsKept.of_portWork h).inOrder hs
  cases h with
  | apply o _ => exact ringsInOrder_applyAll s o hs
  | start n d armed _ _ => exact hwork (portWork_beginRun rfl s d armed)
  | stop n => exact hwork (portWork_stopStream rfl s)
  | abort n => exact hwork (portWork_abortStream rfl s .aborted)
  | entry n e hactive _ _ => exact hwork (portWork_setStream rfl hactive)
  | resetPart =>
    exact (ringsKept_passThrough _).inOrder (ringsInOrder_removeDefinitions ((ringsKept_endStreams s).inOrder hs))
  | nothing => exact hs
  | _ => exact (RingsKept.of_eq rfl rfl rfl (.refl _) id).inOrder hs

theorem CommandEffect.cmdState {i : Instr} (h : CommandEffect i s t) : t.cmd.state = s.cmd.state := h.frame.1.cmdState

theorem commandRows_ringsInOrder {i : Instr} (hi : i ∈ commandRows) :
    Leads (fun s t => RingsInOrder s → RingsInOrder t) (exec i) := by
  refine leads_command (fun _ => id) hi fun r s t res _ hr heffect hs => ?_
  have hresult : RingsKept t (t.withResult r res) :=
    .of_eq rfl rfl rfl (.refl _) fun _ => by rw [heffect.cmdState, hr]; nofun
  exact hresult.inOrder (heffect.ringsInOrder hs)

/-! ### The path -/

theorem endAccess_phase (s : State) (a : Access) (e : Effect) : s.endAccess.path.phase ≠ .forwarded a e := by
  simp only [State.endAccess]
  split <;> nofun

theorem substitute_phase (s : State) (w : Word) (a : Access) (e : Effect) : (s.substitute w).path.phase ≠ .forwarded a e :=
  endAccess_phase _ _ _

theorem expire_phase (s : State) (a : Access) (r : RingId) (slot : Nat) (b : Access) (e : Effect) :
    (s.expire a r slot).path.phase ≠ .forwarded b e := by
  simp only [State.expire]
  split
  · split <;> exact endAccess_phase _ _ _
  · split <;> exact substitute_phase _ _ _ _

theorem ringsKept_expire (s : State) (a : Access) (r : RingId) (slot : Nat) : RingsKept s (s.expire a r slot) :=
  .of_defs (by simp) (defsKept_expire ..) (fun _ _ h => absurd h (expire_phase _ _ _ _ _ _)) (.of_eq (by simp)) (by simp)

theorem ringsKept_answer {a : Access} {r : RingId} {slot w : Nat} {x : Answer} (h : s.judge a r slot w = x) :
    RingsKept s (s.answer a r slot w x) := by
  cases x with
  | pass e => exact ringsKept_forward a (judge_claim h)
  | substitute w =>
    exact .of_defs rfl (.of_tables rfl rfl rfl rfl) (fun _ _ h => absurd h (substitute_phase _ _ _ _)) (.refl _) rfl
  | hold =>
    simp only [State.answer]
    split
    · exact ringsKept_setPhase nofun
    · exact ringsKept_expire ..

theorem raiseHits_eq (s : State) (a : Access) (data : Word) (blocked : Bool) (hits : List (Fin 4)) :
    s.raiseHits a data blocked hits = { s with events := (s.raiseHits a data blocked hits).events } :=
  foldl_rel (R := fun s t => t = { s with events := t.events }) (f := fun (s : State) (w : Fin 4) => s.raisePart .watchHit
    (BitVec.ofNat 8 w.val) (data &&& a.laneMask) (a.addr.extractLsb' 0 16) (if blocked then 1 else 0)) (fun _ => rfl)
    (fun s t u h h' => by rw [h] at h'; exact h') (fun _ _ => rfl) hits s

theorem ringsKept_endAccess (s : State) : RingsKept s s.endAccess :=
  .of_defs rfl (.of_tables rfl rfl rfl rfl) (fun _ _ h => absurd h (endAccess_phase _ _ _)) (.refl _) rfl

theorem ringsKept_watchWrite (s : State) (a : Access) (data : Word) : RingsKept s (s.watchWrite a data) := by
  have hraise : ∀ w, RingsKept s (({ s with watches := w } : State).raiseHits a data (s.watchBlocks a data) (s.watchHits a data)) :=
    fun w => by
      rw [raiseHits_eq]
      exact .of_eq rfl rfl rfl (.refl _) id
  simp only [State.watchWrite]
  split
  · exact (hraise _).trans (ringsKept_endAccess _)
  · exact (hraise _).trans (ringsKept_forward a (effectClaim_none _))

theorem ringsKept_takeAccess (s : State) (a : Access) : RingsKept s (s.takeAccess a) := by
  simp only [State.takeAccess]
  split
  · exact ringsKept_forward a (effectClaim_none s)
  · split
    · exact ringsKept_forward a (effectClaim_none s)
    · exact ringsKept_answer rfl
    · split
      · exact ringsKept_forward a (effectClaim_none s)
      · exact ringsKept_watchWrite ..

/-- The access held on a slot is judged against the ring as it is now (R41). -/
theorem ringsKept_releaseAt (s : State) (r : RingId) (slot : Nat) : RingsKept s (s.releaseAt r slot) := by
  simp only [State.releaseAt]
  split
  · split
    · split
      · next h => exact ringsKept_forward _ (judge_claim h)
      · exact .refl s
      · exact .refl s
    · exact .refl s
  · exact .refl s

theorem ringsKept_takeCommand (s : State) : RingsKept s s.takeCommand := by
  simp only [State.takeCommand]
  split
  · split
    · next h => exact ⟨fun _ => rfl, fun _ => rfl, fun _ _ => .inl, .refl _, fun _ => .inr h.2⟩
    · exact .refl s
  · exact .refl s

/-- With no access forwarded and no burst that claims a ring, an effect that is possible leaves the rings in order. -/
theorem ringsInOrder_makeEffect {e : Effect} (hs : RingsInOrder s) (he : EffectClaim s e)
    (hpath : ∀ a x, s.path.phase ≠ .forwarded a x) (huse : NoBurstClaim s.arb.use) : RingsInOrder (s.makeEffect e) := by
  obtain ⟨hclaims, hcommand⟩ := (ringsInOrder_iff s).1 hs
  cases e with
  | none => exact hs
  | order n slot => exact (RingsKept.of_portWork (portWork_occur rfl s .order slot)).inOrder hs
  | post r =>
    obtain ⟨-, hroom⟩ := he.post r rfl
    have hfill := ringClaims_fillRing hclaims hroom (fun a => hpath a _) (fun b hb => absurd hb (huse.deposit b))
      fun ws hws => absurd hws (huse.record ws)
    have hfilled : RingsInOrder (s.fillRing r) := by
      refine (ringsInOrder_iff _).2 ⟨hfill, fun hstate => ?_⟩
      by_cases hr : RingId.command = r
      · rw [← hr, State.fillRing, setRing_ring_same]
        exact Nat.succ_pos _
      · rw [State.fillRing, setRing_ring_other _ _ _ _ hr]
        exact hcommand hstate
    cases r with
    | command => exact (ringsKept_takeCommand _).inOrder hfilled
    | _ => exact hfilled
  | consume r =>
    obtain ⟨hsupply, hpos⟩ := he.consume r rfl
    refine (ringsInOrder_iff _).2 ⟨ringClaims_consumeRing hclaims hpos (fun a => hpath a _) (fun b hb => absurd hb (huse.fetch b)),
      fun hstate => ?_⟩
    have hne : RingId.command ≠ r := fun h => by rw [← h] at hsupply; exact Bool.noConfusion hsupply
    refine (?_ : 0 < ((s.consumeRing r).ring .command).fill)
    rw [State.consumeRing, setRing_ring_other _ _ _ _ hne]
    exact hcommand hstate

theorem passageComplete_ringsInOrder : Leads (fun s t => RingsInOrder s → RingsInOrder t) (exec .passageComplete) := by
  refine leads_whenLive (fun _ => id) fun s _ hs => ?_
  split
  · next a e hphase huse =>
    have hend : RingsKept s (((s.setUse .free).ramAccess a).endAccess) :=
      .of_defs (by simp) (.of_tables (by simp) (by simp) (by simp) (by simp)) (fun _ _ h => absurd h (endAccess_phase _ _ _))
        (by simpa using noBurstClaim_free.kept) (by simp)
    have hclaim := (pathClaim_iff s).1 hs.2.1 a e hphase
    exact ringsInOrder_makeEffect (hend.inOrder hs) (hclaim.transport hend.ring hend.count) (endAccess_phase _)
      (by simpa using noBurstClaim_free)
  · exact hs

/-! ### Grants and engine bursts -/

theorem ringsKept_setUse (s : State) {u : PortUse} (h : NoBurstClaim u) : RingsKept s (s.setUse u) :=
  .of_eq rfl rfl rfl h.kept id

/-- A burst of claims that the rings meet begins. -/
theorem ringsInOrder_granted (h : RingsKept s t) (hs : RingsInOrder s) (u : PortUse)
    (hfetch : ∀ b, u = .fetch b → b.reads.length ≤ (s.ring (.stream (txOf b.port))).fill)
    (hdeposit : ∀ b, u = .deposit b →
      b.writes.length + (s.ring (.stream (rxOf b.port))).fill ≤ s.slotCount (.stream (rxOf b.port)))
    (hrecord : ∀ ws, u = .eventRecord ws → (s.ring .event).fill < 32) : RingsInOrder (t.setUse u) := by
  obtain ⟨horder, hpath, -, hcommand⟩ := h.inOrder hs
  exact ⟨horder, hpath, ⟨fun b hb _ => Nat.le_trans (hfetch b hb) (h.ring _ ▸ Nat.le_refl _),
    fun b hb _ => (h.ring (.stream (rxOf b.port))).symm ▸ (h.count (.stream (rxOf b.port))).symm ▸ hdeposit b hb,
    fun ws hws => (h.ring .event).symm ▸ hrecord ws hws⟩, hcommand⟩

theorem ringsInOrder_startFetch (hs : RingsInOrder s) : RingsInOrder s.startFetch := by
  simp only [State.startFetch]
  split
  · exact hs
  · split
    · exact hs
    · refine ringsInOrder_granted (.of_eq rfl rfl rfl (.refl _) id) hs _ (fun b hb => ?_) nofun nofun
      cases hb
      simp only [List.length_map, slotsFrom_length]
      split <;> omega

theorem ringsInOrder_startDeposit (hs : RingsInOrder s) : RingsInOrder s.startDeposit := by
  simp only [State.startDeposit]
  split
  · exact hs
  · next p _ =>
    split
    · exact hs
    · next d hd =>
      have hport : ∀ e, e.active = (s.port p).active → RingsKept s (s.setPort p e) := fun _ he => .of_portWork (portWork_setPort he)
      refine ringsInOrder_granted (.after (.of_eq rfl rfl rfl (.refl _) id) (hport _ rfl)) hs _ nofun (fun b hb => ?_) nofun
      cases hb
      have horder := hs.1 (.stream (rxOf p))
      have hcount : s.slotCount (.stream (rxOf p)) = d.length := by simp only [State.slotCount, hd]
      have hfill : (s.ring (.stream (rxOf p))).fill ≤ d.length := by
        simp only [RingInOrder, hcount] at horder
        split at horder
        · omega
        · exact horder.2.2.1
      simp only [List.length_zip, List.length_map, slotsFrom_length, List.length_take, hcount]
      omega

theorem ringsInOrder_startRecord (hs : RingsInOrder s) (hdue : s.identityDue = true ∨ (s.ring .event).fill < 32) :
    RingsInOrder s.startRecord := by
  have hidle : ∀ {ph}, s.start.identity.phase = ph → ph ≠ .firstDue → ph ≠ .secondDue → (s.ring .event).fill < 32 :=
    fun h h1 h2 => hdue.resolve_left (by simp [State.identityDue, h, h1, h2])
  simp only [State.startRecord]
  split
  · exact ringsInOrder_granted (.of_eq rfl rfl rfl (.refl _) id) hs _ nofun nofun nofun
  · exact ringsInOrder_granted (.of_eq rfl rfl rfl (.refl _) id) hs _ nofun nofun nofun
  all_goals
    next hph =>
      split
      · exact hs
      · exact ringsInOrder_granted (.of_eq rfl rfl rfl (.refl _) id) hs _ nofun nofun fun _ _ => hidle hph nofun nofun

theorem ringsInOrder_startCommand (hs : RingsInOrder s) : RingsInOrder s.startCommand := by
  simp only [State.startCommand]
  split
  · exact (ringsKept_setUse (u := .commandRead) s ⟨nofun, nofun, nofun⟩).inOrder hs
  · exact (ringsKept_setUse (u := .commandResult _) s ⟨nofun, nofun, nofun⟩).inOrder hs
  all_goals exact hs

theorem mostPassedOver_mem {rs : List Requester} {r : Requester} (h : s.mostPassedOver rs = some r) : r ∈ rs := by
  induction rs generalizing r with
  | nil => cases h
  | cons x rs ih =>
    simp only [State.mostPassedOver] at h
    split at h
    · cases h
      exact List.mem_cons_self
    · next q hq =>
      split at h <;> cases h
      · exact List.mem_cons_self
      · exact List.mem_cons_of_mem _ (ih hq)

theorem ringsInOrder_grant (hs : RingsInOrder s) : RingsInOrder s.grant := by
  have hcount : ∀ g, RingsInOrder (s.countGrant g) := fun g => (RingsKept.of_eq rfl rfl rfl (.refl _) id).inOrder hs
  simp only [State.grant]
  split
  · exact (ringsKept_setUse (u := .passage) _ ⟨nofun, nofun, nofun⟩).inOrder (hcount _)
  · split
    · next r hr =>
      have hrequest := (List.mem_filter.1 (mostPassedOver_mem hr)).2
      cases r with
      | deposit => exact ringsInOrder_startDeposit (hcount _)
      | fetch => exact ringsInOrder_startFetch (hcount _)
      | command => exact ringsInOrder_startCommand (hcount _)
      | record =>
        refine ringsInOrder_startRecord (hcount _) ?_
        simp only [State.requesting, Bool.or_eq_true, Bool.and_eq_true, decide_eq_true_eq] at hrequest
        exact hrequest.imp id fun h => h.2
    · exact hs

theorem depositNext_eq {b c : DepositBurst} (h : b.next = .deposit c) : c = { b with writes := b.writes.tail } := by
  simp only [DepositBurst.next] at h
  split at h
  · cases h
  · cases h
    rfl

theorem fetchNext_cases (b : FetchBurst) : b.next = .free ∨ b.next = .fetch { b with reads := b.reads.tail } := by
  simp only [FetchBurst.next]
  split
  · exact .inl rfl
  · exact .inr rfl

theorem depositNext_cases (b : DepositBurst) : b.next = .free ∨ b.next = .deposit { b with writes := b.writes.tail } := by
  simp only [DepositBurst.next]
  split
  · exact .inl rfl
  · exact .inr rfl

/-- The burst goes on with fewer words. -/
theorem ringsInOrder_setNext {v : PortUse} (hs : RingsInOrder s)
    (hfetch : ∀ c, v = .fetch c → ∃ b, s.arb.use = .fetch b ∧ c = { b with reads := b.reads.tail })
    (hdeposit : ∀ c, v = .deposit c → ∃ b, s.arb.use = .deposit b ∧ c = { b with writes := b.writes.tail })
    (hrecord : ∀ ws, v ≠ .eventRecord ws) : RingsInOrder (s.setUse v) := by
  obtain ⟨horder, hpath, ⟨hfetch', hdeposit', -⟩, hcommand⟩ := hs
  refine ⟨horder, hpath, ⟨fun c hc hring => ?_, fun c hc hring => ?_, fun ws hws => absurd hws (hrecord ws)⟩, hcommand⟩
  · obtain ⟨b, hb, rfl⟩ := hfetch c hc
    exact Nat.le_trans (List.tail_sublist _).length_le (hfetch' b hb hring)
  · obtain ⟨b, hb, rfl⟩ := hdeposit c hc
    exact Nat.le_trans (Nat.add_le_add_right (List.tail_sublist _).length_le _) (hdeposit' b hb hring)

theorem ringsInOrder_fetchWord {b : FetchBurst} {a : Addr} {rest : List Addr} (hb : s.arb.use = .fetch b)
    (hreads : b.reads = a :: rest) (hs : RingsInOrder s) : RingsInOrder (s.fetchWord b a) := by
  have hnext : RingsInOrder (s.setUse b.next) := by
    refine ringsInOrder_setNext hs (fun c hc => ⟨b, hb, fetchNext_eq hc⟩) (fun c hc => ?_) fun ws hws => ?_
    · obtain h | h := fetchNext_cases b <;> rw [h] at hc <;> cases hc
    · obtain h | h := fetchNext_cases b <;> rw [h] at hws <;> cases hws
  simp only [State.fetchWord]
  split
  · next hring =>
    have hlen := hs.2.2.1.1 b hb hring
    rw [hreads, List.length_cons] at hlen
    obtain ⟨hclaims, hcommand⟩ := (ringsInOrder_iff _).1 hnext
    have hconsumed : RingsInOrder ((s.setUse b.next).consumeRing (.stream (txOf b.port))) := by
      refine (ringsInOrder_iff _).2 ⟨ringClaims_consumeRing hclaims (Nat.zero_lt_of_lt hlen) (fun x hx => ?_) fun c hc _ _ => ?_,
        hcommand⟩
      · have hsupply := ((pathClaim_iff s).1 hs.2.1 x _ hx).consume _ rfl
        simp [RingId.supply, isTx_txOf] at hsupply
      · have hc : c = { b with reads := b.reads.tail } := fetchNext_eq hc
        rw [hc, hreads]
        exact hlen
    have hreleased := (ringsKept_releaseAt _ (.stream (txOf b.port)) (s.ring (.stream (txOf b.port))).consumer).inOrder hconsumed
    split
    · exact (RingsKept.of_portWork (portWork_joinTx ..)).inOrder hreleased
    · exact hreleased
  · exact hnext

theorem ringsInOrder_depositWord {b : DepositBurst} {a : Addr} {w : Word} {rest : List (Addr × Word)}
    (hb : s.arb.use = .deposit b) (hwrites : b.writes = (a, w) :: rest) (hs : RingsInOrder s) :
    RingsInOrder (s.depositWord b a w) := by
  have hnext : RingsInOrder (s.setUse b.next) := by
    refine ringsInOrder_setNext hs (fun c hc => ?_) (fun c hc => ⟨b, hb, depositNext_eq hc⟩) fun ws hws => ?_
    · obtain h | h := depositNext_cases b <;> rw [h] at hc <;> cases hc
    · obtain h | h := depositNext_cases b <;> rw [h] at hws <;> cases hws
  simp only [State.depositWord]
  split
  · next hring =>
    have hlen := hs.2.2.1.2.1 b hb hring
    rw [hwrites, List.length_cons] at hlen
    have hmem : RingsInOrder { s.setUse b.next with mem := Memory.store s.mem a true true w } :=
      (RingsKept.of_eq rfl rfl rfl (.refl _) id).inOrder hnext
    obtain ⟨hclaims, hcommand⟩ := (ringsInOrder_iff _).1 hmem
    have hfilled : RingsInOrder (({ s.setUse b.next with mem := Memory.store s.mem a true true w } : State).fillRing
        (.stream (rxOf b.port))) := by
      have hroom : (s.ring (.stream (rxOf b.port))).fill < s.slotCount (.stream (rxOf b.port)) := by omega
      refine (ringsInOrder_iff _).2 ⟨ringClaims_fillRing hclaims hroom (fun x hx => ?_) (fun c hc _ _ => ?_) fun ws _ => nofun,
        hcommand⟩
      · have hsupply := ((pathClaim_iff s).1 hs.2.1 x _ hx).post _ rfl
        simp [RingId.supply, isTx_rxOf] at hsupply
      · have hc : c = { b with writes := b.writes.tail } := depositNext_eq hc
        rw [hc, hwrites]
        refine (?_ : rest.length + (s.ring (.stream (rxOf b.port))).fill < s.slotCount (.stream (rxOf b.port)))
        omega
    have hreleased := (ringsKept_releaseAt _ (.stream (rxOf b.port)) (s.ring (.stream (rxOf b.port))).producer).inOrder hfilled
    refine (RingsKept.of_portWork (portWork_processMarks ..)).inOrder ?_
    split
    · exact (RingsKept.of_portWork (portWork_countDeposit ..)).inOrder hreleased
    · exact hreleased
  · exact hnext

/-! ### Commands and records -/

theorem ringsInOrder_eventWritten {ws xs : List (Addr × Word)} (hws : s.arb.use = .eventRecord ws) (hs : RingsInOrder s) :
    RingsInOrder ((s.landBurst xs).fillRing .event) := by
  have hlanded : RingsInOrder (s.landBurst xs) :=
    (RingsKept.of_eq rfl rfl rfl noBurstClaim_free.kept id : RingsKept s (s.landBurst xs)).inOrder hs
  obtain ⟨hclaims, hcommand⟩ := (ringsInOrder_iff _).1 hlanded
  refine (ringsInOrder_iff _).2 ⟨ringClaims_fillRing hclaims (hs.2.2.1.2.2 ws hws) (fun x hx => ?_) nofun nofun, hcommand⟩
  have hsupply := ((pathClaim_iff s).1 hs.2.1 x _ hx).post _ rfl
  simp [RingId.supply] at hsupply

theorem ringClaims_resultWritten {r : CommandRecord} {res : CommandResult} {ws : List (Addr × Word)}
    (hr : s.cmd.state = .writing r res) (hs : RingsInOrder s) : RingClaims ((s.landBurst ws).consumeRing .command) := by
  have hlanded : RingsKept s (s.landBurst ws) := .of_eq rfl rfl rfl noBurstClaim_free.kept id
  refine ringClaims_consumeRing (hlanded.claims ((ringsInOrder_iff s).1 hs).1) (hs.2.2.2 (by rw [hr]; nofun)) (fun x hx => ?_) nofun
  have hsupply := ((pathClaim_iff s).1 hs.2.1 x _ hx).consume _ rfl
  simp [RingId.supply] at hsupply

theorem commandResultWritten_ringsInOrder : Leads (fun s t => RingsInOrder s → RingsInOrder t) (exec .commandResultWritten) := by
  refine leads_whenLive (fun _ => id) fun s _ hs => ?_
  split
  · next ws r res _ hr =>
    have hresult : ∀ u : State, RingsKept u (u.afterResult r) := fun u => by
      simp only [State.afterResult]
      split <;> exact .of_eq rfl rfl rfl (.refl _) id
    have hwaiting : ∀ u : State, RingsKept u { u with cmd := { u.cmd with state := .waiting } } := fun u =>
      .of_eq rfl rfl rfl (.refl _) fun h => absurd rfl h
    have hclaims := ((hwaiting _).after ((hresult _).after (ringsKept_releaseAt _ .command r.slot))).claims
      (ringClaims_resultWritten (ws := ws) hr hs)
    exact (ringsKept_takeCommand _).inOrder ((ringsInOrder_iff _).2 ⟨hclaims, fun h => absurd rfl h⟩)
  · exact hs

/-- After a reset the rings are freshly created and nothing claims them. -/
theorem ringsInOrder_cleared (s : State) (start : StartUp) : RingsInOrder (s.cleared start) := by
  have hphase : ∀ a e, (s.cleared start).path.phase ≠ .forwarded a e := fun a e => by
    simp only [State.cleared, PathPhase.onTransparentPath]
    split <;> nofun
  have hring : ∀ r, ∃ lap, (s.cleared start).ring r = Ring.fresh lap := fun r => by
    cases r <;> exact ⟨_, by simp [State.cleared, State.reset, State.ring, RingTable.get]; rfl⟩
  refine ⟨fun r => ?_, (pathClaim_iff _).2 fun a e h => absurd h (hphase a e), ⟨nofun, nofun, nofun⟩, fun h => absurd rfl h⟩
  obtain ⟨lap, h⟩ := hring r
  rw [h]
  exact ringInOrder_fresh ..

theorem RingsKept.of_map8 {f : StreamEntry → StreamEntry} (hstreams : t.streams = map8 f s.streams)
    (hf : ∀ e, (f e).active = e.active) (hrings : t.rings = s.rings)
    (hpath : ∀ a e, t.path.phase = .forwarded a e → s.path.phase = .forwarded a e) (huse : t.arb = s.arb) (hcmd : t.cmd = s.cmd) :
    RingsKept s t :=
  ⟨ring_of_rings hrings, slotCount_of_active fun n => by rw [stream_of_map8 hstreams, hf], fun a e h => .inl (hpath a e h),
    .of_eq (by rw [huse]), fun h => .inl (hcmd ▸ h)⟩

theorem exec_ringsInOrder (i : Instr) : Leads (fun s t => RingsInOrder s → RingsInOrder t) (exec i) := by
  have hkept : ∀ {o}, Leads RingsKept o → Leads (fun s t => RingsInOrder s → RingsInOrder t) o :=
    fun h => h.mono fun _ _ h => h.inOrder
  have hwork : ∀ {o} {p}, Leads (PortWork p) o → Leads (fun s t => RingsInOrder s → RingsInOrder t) o :=
    fun h => hkept (h.mono fun _ _ => .of_portWork)
  cases i with
  | accessArrival c =>
    refine hkept fun s => ?_
    simp only [exec, execAccessArrival]
    split
    · exact ⟨s, rfl, .refl s⟩
    · split
      · split
        · exact ⟨_, rfl, .after (ringsKept_takeAccess ..) (.of_eq rfl rfl rfl (.refl _) id)⟩
        · exact ⟨s, rfl, .refl s⟩
      · exact ⟨_, rfl, .of_defs (by simp) (.of_tables (by simp) (by simp) (by simp) (by simp)) nofun (.of_eq (by simp)) (by simp)⟩
  | arbiterGrant =>
    refine leads_whenLive (fun _ => id) fun s _ hs => ?_
    split
    · exact ringsInOrder_grant hs
    · exact hs
  | passageComplete => exact passageComplete_ringsInOrder
  | holdExpiry =>
    refine hkept (leads_whenLive .refl fun s _ => ?_)
    split
    · exact ringsKept_expire ..
    · exact .refl s
  | fetchWordComplete =>
    refine leads_whenLive (fun _ => id) fun s _ hs => ?_
    split
    · next b hb =>
      split
      · next hreads => exact ringsInOrder_fetchWord hb hreads hs
      · exact (ringsKept_setUse s noBurstClaim_free).inOrder hs
    · exact hs
  | depositWordComplete =>
    refine leads_whenLive (fun _ => id) fun s _ hs => ?_
    split
    · next b hb =>
      split
      · next hwrites => exact ringsInOrder_depositWord hb hwrites hs
      · exact (ringsKept_setUse s noBurstClaim_free).inOrder hs
    · exact hs
  | rxStoppingDrained p => exact hwork (rxStoppingDrained_portWork p)
  | rxRunComplete p => exact hwork (rxRunComplete_portWork p)
  | commandRecordRead =>
    refine hkept (leads_whenLive .refl fun s _ => ?_)
    split
    · next hread => exact .of_eq rfl rfl rfl noBurstClaim_free.kept fun _ => by rw [hread]; nofun
    · exact .refl s
  | commandResultWritten => exact commandResultWritten_ringsInOrder
  | eventRecordWritten =>
    refine leads_whenLive (fun _ => id) fun s _ hs => ?_
    split
    · next ws hws =>
      exact (RingsKept.of_eq rfl rfl rfl (.refl _) id : RingsKept ((s.landBurst ws).fillRing .event) _).inOrder
        (ringsInOrder_eventWritten hws hs)
    · exact hs
  | intPulseEnd => exact hkept (leads_whenLive .refl fun s _ => .of_eq rfl rfl rfl (.refl _) id)
  | identityFirstBurstComplete =>
    refine hkept (leads_whenLive .refl fun s _ => ?_)
    split
    · exact .of_eq rfl rfl rfl noBurstClaim_free.kept id
    · exact .refl s
  | identityBurstComplete =>
    refine hkept (leads_whenLive .refl fun s _ => ?_)
    split
    · have henter : ∀ u : State, RingsKept u u.enterOperating := fun u => by
        simp only [State.enterOperating]
        split
        · exact (ringsKept_takeCommand _).after (.of_eq rfl rfl rfl (.refl _) id)
        · exact .refl u
      exact .after (henter _) (.of_eq rfl rfl rfl noBurstClaim_free.kept id)
    · exact .refl s
  | frameBoundary p fsy => exact hwork (frameBoundary_portWork p fsy)
  | lateFrame p => exact hwork (lateFrame_portWork p)
  | channelSlotStart p => exact hwork (channelSlotStart_portWork p)
  | rxChannelWordComplete p sdi => exact hwork (rxChannelWordComplete_portWork p sdi)
  | starvationExpiry p => exact hwork (starvationExpiry_portWork p)
  | trigEdge =>
    refine hkept (leads_whenLive .refl fun s _ => ?_)
    split
    · exact .refl s
    · exact .of_map8 rfl triggered_active rfl (fun _ _ => id) rfl rfl
  | tagclkEdge =>
    refine hkept (leads_whenLive .refl fun s _ => ?_)
    split <;> exact .of_eq rfl rfl rfl (.refl _) id
  | internalTimeTagIncrease =>
    refine hkept (leads_whenLive .refl fun s _ => ?_)
    split <;> exact .of_eq rfl rfl rfl (.refl _) id
  | rstFall =>
    intro s
    simp only [exec, execRstFall]
    split
    · exact ⟨s, rfl, id⟩
    all_goals exact ⟨_, rfl, fun _ => ringsInOrder_cleared ..⟩
  | rstRise b q =>
    intro s
    simp only [exec, execRstRise]
    split
    · exact ⟨_, rfl, fun _ => ringsInOrder_cleared ..⟩
    all_goals exact ⟨s, rfl, id⟩
  | pcsOrStrobesHigh =>
    refine hkept fun s => ?_
    simp only [exec, execPcsOrStrobesHigh]
    split
    iterate 3 exact ⟨_, rfl, .of_defs rfl (.of_tables rfl rfl rfl rfl) nofun (.refl _) rfl⟩
    all_goals exact ⟨_, rfl, .of_eq rfl rfl rfl (.refl _) id⟩
  | _ => exact commandRows_ringsInOrder (by simp [commandRows, commandTable])

theorem phase_tick_forwarded {ph : PathPhase} {a : Access} {e : Effect} (h : ph.tick = .forwarded a e) : ph = .forwarded a e := by
  cases ph <;> simp_all [PathPhase.tick]

theorem ringsKept_tick (s : State) : RingsKept s s.tick := by
  simp only [State.tick]
  split
  · exact .of_map8 rfl entry_tick_active rfl (fun _ _ => phase_tick_forwarded) rfl rfl
  · exact .refl s

end Chain

end Sys2Proof.Machine

namespace Sys2Proof.Proofs

open Sys2Proof Sys2Proof.Machine Sys2Proof.Claims

/-- Settles O58: every command and a microsecond keep the rings in order, with the claims on them. -/
theorem ringsStayInOrder : Obligations.RingsStayInOrder := fun _ _ hs hstep =>
  step_keeps (P := RingsInOrder) (fun s q => (RingsKept.of_eq rfl rfl rfl (.refl _) id : RingsKept s { s with pending := q }).inOrder)
    (fun s => (ringsKept_tick s).inOrder) exec_ringsInOrder hs hstep

end Sys2Proof.Proofs

/-! PROOF. The part as a whole: the microsecond, what RESET and SAFE leave, the values of reset, and the fall of RST#. -/

namespace Sys2Proof.Machine

open Sys2Proof Sys2Proof.Claims

/-! ### The memory cycle of an access -/

theorem highByte_append (hi lo : Byte) : highByte (hi ++ lo) = hi := by
  refine BitVec.eq_of_getLsbD_eq fun i hi' => ?_
  rw [highByte, BitVec.getLsbD_extractLsb', BitVec.getLsbD_append, if_neg (by omega)]
  simp [hi']

theorem lowByte_append (hi lo : Byte) : lowByte (hi ++ lo) = lo := by
  refine BitVec.eq_of_getLsbD_eq fun i hi' => ?_
  rw [lowByte, BitVec.getLsbD_extractLsb', BitVec.getLsbD_append, if_pos (by omega)]
  simp [hi']

/-- A write stores its data in the lanes it selects, and nothing else changes. -/
theorem ramAccess_write {s : State} {a : Access} {d : Word} (h : a.kind = .write d) :
    s.ramAccess a = { s with mem := Memory.store s.mem a.addr a.high a.low d } := by
  simp only [State.ramAccess, h]

/-- A read leaves the RAM's bytes on the lanes of PD it selects; the others are free (log 6). -/
structure ReadsLanes (m : List Host.Cell) (a : Access) (pd : Word) : Prop where
  high : a.high = true → highByte pd = Memory.byteAt m (Memory.highKey a.addr)
  low : a.low = true → lowByte pd = Memory.byteAt m (Memory.lowKey a.addr)

theorem ramAccess_read {s : State} {a : Access} (h : a.kind = .read) :
    ReadsLanes s.mem a (s.ramAccess a).path.pd ∧ (s.ramAccess a).mem = s.mem ∧
      s.ramAccess a = { s with path := { s.path with pd := (s.ramAccess a).path.pd }, freeCount := (s.ramAccess a).freeCount } := by
  simp only [State.ramAccess, h, State.ramRead]
  exact ⟨⟨fun hhigh => by rw [highByte_append, if_pos hhigh], fun hlow => by rw [lowByte_append, if_pos hlow]⟩, trivial, trivial⟩

/-- With a strobe low an access arrives (R1, R2). -/
theorem busAccess_of_strobe {c : BusCycle} (h : (c.poeLow || c.pweLow) = true) : busAccess c = some (accessOf c) := by
  simp only [busAccess, accessOf]
  cases hw : c.pweLow with
  | true => rfl
  | false =>
    rw [hw, Bool.or_false] at h
    simp only [h, if_true, Bool.false_eq_true, if_false]

theorem accessOf_write {c : BusCycle} (h : c.pweLow = true) : (accessOf c).kind = .write c.data := if_pos h

theorem accessOf_read {c : BusCycle} (h : c.pweLow = false) : (accessOf c).kind = .read := if_neg (by rw [h]; exact Bool.false_ne_true)

/-! ### The starvation timer -/

theorem entry_tick_stopped {e : StreamEntry} (h : e.starvation = none) : e.tick = e := by
  simp only [StreamEntry.tick]
  split
  · next hk => exact nomatch h.symm.trans hk
  · rfl

theorem entry_tick_running {e : StreamEntry} {d : StreamDef} {k : Nat} (hd : e.active = some d) (hk : e.starvation = some k) :
    e.tick = { e with starvation := some (countUp d.starvationLimit k) } := by
  simp only [StreamEntry.tick]
  split
  · next hd' hk' =>
    cases hd.symm.trans hd'
    cases hk.symm.trans hk'
    rfl
  · next h => exact absurd hk (h d k hd)

/-! ### RESET and SAFE -/

theorem next_of_still {o : State → Host.Outcome State Fault Refusal} (ho : ∃ f, o = whenLive f) {s : State} (hs : s.live = false) :
    o s = .next s := by
  obtain ⟨f, rfl⟩ := ho
  exact whenLive_still f s hs

theorem exec_still {s : State} (hs : s.live = false) {c : Instr} (harrival : ∀ a, c ≠ .accessArrival a) (hstrobes : c ≠ .pcsOrStrobesHigh)
    (hfall : c ≠ .rstFall) (hrise : ∀ base bpar, c ≠ .rstRise base bpar) : exec c s = .next s := by
  cases c with
  | accessArrival a => exact absurd rfl (harrival a)
  | pcsOrStrobesHigh => exact absurd rfl hstrobes
  | rstFall => exact absurd rfl hfall
  | rstRise base bpar => exact absurd rfl (hrise base bpar)
  | _ => exact next_of_still (o := exec _) ⟨_, rfl⟩ hs

theorem not_live_of_reset {s : State} (h : s.start.part = .reset) : s.live = false := by
  rw [Bool.eq_false_iff, Ne, live_iff, h]
  simp

/-! ### Reset values -/

/-- Clearing the part in reset changes nothing. -/
theorem reset_cleared : State.reset.cleared State.reset.start = State.reset := rfl

theorem ringsInOrder_reset : RingsInOrder State.reset := reset_cleared ▸ ringsInOrder_cleared State.reset State.reset.start

theorem definitionsInRange_reset : DefinitionsInRange State.reset := definitionsInRange_of_none ⟨rfl, rfl, rfl, rfl⟩

theorem reset_port (p : Fin 4) : State.reset.port p = PortEntry.fresh none := by simp [State.port, State.reset]

theorem reset_stream (n : Fin 8) : State.reset.stream n = StreamEntry.fresh none 0 := by simp [State.stream, State.reset]

theorem queuesBounded_reset : QueuesBounded State.reset := by
  refine queuesBounded_iff.2 ⟨fun p => ⟨?_, rxBounded_of_empty ?_⟩, nofun, Nat.zero_le _, Nat.zero_le _, nofun⟩
  · rw [reset_port]
    exact Nat.zero_le _
  · rw [reset_port]
    rfl

/-! ### The end of STARTING -/

/-- Of a live part: it is in OPERATING, and the Command Unit may have taken a record. -/
theorem enterOperating_eq {s : State} (hs : s.live = true) :
    s.enterOperating = { s with start := { s.start with part := .operating }, cmd := s.enterOperating.cmd } := by
  obtain hpart | hpart := (live_iff s).1 hs
  · simp only [State.enterOperating, hpart]
    obtain ⟨_, _, _, h⟩ | h := takeCommand_cases { s with start := { s.start with part := .operating } } <;> rw [h]
  · simp only [State.enterOperating, hpart]
    rw [← hpart]

theorem enterOperating_takes {s : State} (hpart : s.start.part = .starting) (hstate : s.cmd.state = .waiting)
    (hfill : 1 ≤ (s.ring .command).fill) :
    s.enterOperating.cmd = { s.cmd with state := .reading (s.ring .command).consumer } := by
  simp only [State.enterOperating, hpart, State.takeCommand, hstate]
  rw [if_pos ⟨trivial, hfill⟩]
  rfl

theorem enterOperating_leaves {s : State}
    (h : s.start.part ≠ .starting ∨ s.cmd.state ≠ .waiting ∨ (s.ring .command).fill = 0) : s.enterOperating.cmd = s.cmd := by
  simp only [State.enterOperating]
  split
  · next hpart =>
    simp only [State.takeCommand]
    split
    · next hstate =>
      split
      · next hfill =>
        obtain h | h | h := h
        · exact absurd hpart h
        · exact absurd hstate h
        · exact absurd (h ▸ hfill.2 : 1 ≤ 0) (by omega)
      · rfl
    · rfl
  · rfl

/-! ### The fall of RST# -/

/-- The access that is held or forwarded. -/
def UnderWay (s : State) (a : Access) : Prop := (∃ h, s.path.phase = .held h ∧ h.access = a) ∨ ∃ e, s.path.phase = .forwarded a e

/-- Of a burst that is cut the first words land: at most one of a deposit burst, and none of one without its ring. -/
theorem cutBurst_lands (s : State) : ∃ k, k ≤ s.arb.use.writes.length ∧
    (∀ b, s.arb.use = .deposit b → k ≤ if b.ringStands then 1 else 0) ∧
    s.cutBurst = { s with mem := Memory.storeAll s.mem (s.arb.use.writes.take k), freeCount := s.cutBurst.freeCount } := by
  cases hws : s.arb.use.writes with
  | nil =>
    refine ⟨0, Nat.le_refl _, fun _ _ => Nat.zero_le _, ?_⟩
    simp only [State.cutBurst, hws]
    rfl
  | cons w ws =>
    refine ⟨_, ?_, ?_, by simp only [State.cutBurst, hws]; rfl⟩
    · have hmod := Nat.mod_lt (Config.cutWordsDone s.freeCount) (Nat.succ_pos ws.length)
      simp only [List.length_cons, Nat.succ_eq_add_one] at hmod ⊢
      split <;> split <;> omega
    · intro b hb
      have hring : b.ringStands = true := by
        rw [hb] at hws
        refine Classical.byContradiction fun h => ?_
        simp [PortUse.writes, h] at hws
      rw [if_pos hring]
      simp only [hb, PortUse.isRecord, Bool.false_eq_true, if_false]
      split <;> omega

/-- The access under way goes straight to the RAM. -/
theorem cutAccess_of_underWay {s : State} {a : Access} (h : UnderWay s a) :
    ∃ ph, s.cutAccess = (s.ramAccess a).setPhase ph := by
  obtain ⟨x, hx, rfl⟩ | ⟨e, he⟩ := h
  · exact ⟨_, by simp only [State.cutAccess, hx]; rfl⟩
  · exact ⟨_, by simp only [State.cutAccess, he]; rfl⟩

theorem cutAccess_of_none {s : State} (h : ∀ a, ¬ UnderWay s a) : s.cutAccess = s := by
  simp only [State.cutAccess]
  split
  · next x hx => exact absurd (.inl ⟨x, hx, rfl⟩) (h x.access)
  · next a e he => exact absurd (.inr ⟨e, he⟩) (h a)
  all_goals rfl

theorem cutAccess_keeps (s : State) :
    s.cutAccess.start = s.start ∧ s.cutAccess.path.bus = s.path.bus ∧ s.cutAccess.pending = s.pending := by
  simp only [State.cutAccess]
  split
  · simp [State.setPhase]
  · simp [State.setPhase]
  all_goals exact ⟨rfl, rfl, rfl⟩

theorem rstFall_of_on {s : State} (h : s.start.part ≠ .reset) :
    exec .rstFall s = .next (s.cutBurst.cutAccess.cleared
      { s.cutBurst.cutAccess.start with part := .reset, identity := { phase := .idle, owed := false } }) := by
  simp only [exec, execRstFall]
  split
  · next hreset => exact absurd hreset h
  all_goals rfl

end Sys2Proof.Machine

namespace Sys2Proof.Proofs

open Sys2Proof Sys2Proof.Machine Sys2Proof.Claims

/-- Settles O4: in RESET and SAFE every other meaning is `whenLive` of something, and RST# can only turn. -/
theorem resetAndSafeTakeNothing : Obligations.ResetAndSafeTakeNothing := by
  refine ⟨fun c s hs => exec_still hs, fun s h => ?_, fun base bpar s h => ?_⟩
  · simp only [exec, execRstFall, h]
  · simp only [exec, execRstRise]
    split
    · next hreset => exact absurd hreset h
    all_goals rfl

/-- Settles O2: a microsecond is `State.tick`, field by field. -/
theorem emptyQueueLetsAMicrosecondPass : Obligations.EmptyQueueLetsAMicrosecondPass := by
  intro s hp
  rw [step_of_empty hp]
  refine ⟨fun hs => by simp [State.tick, hs], fun hs => ⟨_, rfl, ?_⟩⟩
  have htick : s.tick = { s with
      path := { s.path with phase := s.path.phase.tick }, streams := map8 StreamEntry.tick s.streams
      events := { s.events with pulse := s.events.pulse.map (countUp 1) } } := by rw [State.tick, if_pos hs]
  have hstream : ∀ n, s.tick.stream n = (s.stream n).tick := fun n => by rw [htick]; exact stream_of_map8 rfl n
  refine ⟨by rw [htick], fun h hh => ?_, fun hh => ?_, fun hk => ?_, fun k hk => ?_, fun n hn => ?_, fun n d k hk hd => ?_⟩
  · rw [htick]
    simp only [hh, PathPhase.tick, countUp]
  · rw [htick]
    cases hph : s.path.phase with
    | held h => exact absurd hph (hh h)
    | _ => rfl
  · rw [htick]
    simp only [hk, Option.map_none]
  · rw [htick]
    simp only [hk, Option.map_some, countUp]
  · rw [hstream, entry_tick_stopped hn]
  · rw [hstream, entry_tick_running hd hk]
    rfl

/-- Settles O6: the blocks of the reset state are read off it, and it meets the invariants. -/
theorem resetStateHasTheResetValues : Obligations.ResetStateHasTheResetValues := by
  refine ⟨⟨rfl, rfl, rfl, rfl, rfl, rfl, fun r => ?_, fun r => ?_, fun n => ?_, rfl, rfl, fun p => ⟨?_, ?_, ?_⟩, fun p => ?_, fun w => ?_,
    rfl, rfl, rfl, rfl, rfl⟩, rfl, ringsInOrder_reset, queuesBounded_reset, definitionsInRange_reset⟩
  · exact passedOver_of_turns_reset rfl r
  · cases r <;> simp [State.ring, RingTable.get, State.reset, Ring.fresh]
  · rw [reset_stream]
    rfl
  · rw [reset_port]
    rfl
  · simp only [State.sdo, reset_port]
    rfl
  · simp only [State.drivesClock, reset_port]
    rfl
  · simp [State.detector, State.reset, DetectorEntry.fresh]
  · simp [State.watch, State.reset, WatchEntry.fresh]

/-- Settles O9: the burst is cut, then the access under way is completed, then every block is cleared. -/
theorem rstFallEndsEverything : Obligations.RstFallEndsEverything := by
  intro s h
  obtain ⟨k, hk, hdeposit, hcut⟩ := cutBurst_lands s
  obtain ⟨hstart, hbus, hpending⟩ := cutAccess_keeps s.cutBurst
  have hburst : s.cutBurst.mem = Memory.storeAll s.mem (s.arb.use.writes.take k) ∧ s.cutBurst.path = s.path ∧
      s.cutBurst.start = s.start ∧ s.cutBurst.pending = s.pending := by
    rw [hcut]
    exact ⟨rfl, rfl, rfl, rfl⟩
  obtain ⟨hmem, hpath, hstart', hpending'⟩ := hburst
  have hunder : ∀ a, UnderWay s a → UnderWay s.cutBurst a := fun a => by simp only [UnderWay, hpath]; exact id
  rw [hstart'] at hstart
  rw [hpath] at hbus
  refine ⟨_, k, rstFall_of_on h, ?_, cleared_blocksAsReset .., cleared_prdy .., rfl, rfl, hpending.trans hpending', hbus, ?_,
    hk, hdeposit, ?_⟩
  · rw [hstart]
    rfl
  · rw [memoryPins_still _ (not_live_of_reset rfl)]
    exact congrArg _ hbus
  rw [← hmem]
  refine ⟨fun hnone => ?_, fun a d ha hd => ?_, fun a ha hd => ?_⟩
  · have hcut' : s.cutBurst.cutAccess = s.cutBurst := cutAccess_of_none fun a ha => hnone a (by simpa only [UnderWay, hpath] using ha)
    rw [hcut']
    exact ⟨rfl, by rw [← hpath]; rfl⟩
  · obtain ⟨ph, hcycle⟩ := cutAccess_of_underWay (hunder a ha)
    rw [hcycle, ramAccess_write hd]
    exact ⟨rfl, by rw [← hpath]; rfl⟩
  · obtain ⟨ph, hcycle⟩ := cutAccess_of_underWay (hunder a ha)
    obtain ⟨hlanes, hsame, -⟩ := ramAccess_read (s := s.cutBurst) hd
    rw [hcycle]
    exact ⟨hsame, hlanes.high, hlanes.low⟩

/-- Settles O10: the two bursts of the identity block land, and the second ends STARTING. -/
theorem identityWriteEndsInStarted : Obligations.IdentityWriteEndsInStarted := by
  refine ⟨fun s ws hs huse => ?_, fun s ws hs huse => ?_⟩
  · simp only [exec, execIdentityFirstBurstComplete, whenLive_live _ s hs, huse]
    rfl
  · simp only [exec, execIdentityBurstComplete, whenLive_live _ s hs, huse]
    refine ⟨_, rfl, ?_, fun hpart hstate hfill => enterOperating_takes hpart hstate hfill, fun h => enterOperating_leaves h⟩
    rw [enterOperating_eq]
    · rfl
    · exact hs

/-- Settles O11: the access is carried out at its arrival, and the memory port shows what the processor port shows. -/
theorem transparentAccessReachesMemory : Obligations.TransparentAccessReachesMemory := by
  refine ⟨fun c s hs hstrobe => ?_, fun s hs hphase => ⟨s.setBus none |>.setPhase .ready, ?_, ?_, ?_, rfl⟩⟩
  · simp only [exec, execAccessArrival, busAccess_of_strobe hstrobe, hs]
    have hpins : ∀ u : State, u.start = s.start → u.path.bus = some c → u.memoryPins = some (BusCycle.memoryPins c) := fun u hu hbus => by
      rw [memoryPins_still u (by rw [← hs, State.live, State.live, hu]), hbus]
      rfl
    have hcycle : ((s.setBus (some c)).ramAccess (accessOf c)).start = s.start ∧
        ((s.setBus (some c)).ramAccess (accessOf c)).path.bus = some c := by simp [State.setBus]
    refine ⟨_, rfl, rfl, ?_, hpins _ hcycle.1 hcycle.2,
      fun hw => ?_, fun hw => ?_⟩
    · cases hkind : (accessOf c).kind with
      | read => rw [(ramAccess_read hkind).2.2]; rfl
      | write d => rw [ramAccess_write hkind]; rfl
    · rw [ramAccess_write (accessOf_write hw)]
      exact ⟨rfl, rfl⟩
    · obtain ⟨hlanes, hmem, -⟩ := ramAccess_read (s := s.setBus (some c)) (accessOf_read hw)
      exact ⟨hmem, hlanes.high, hlanes.low⟩
  · obtain h | h := hphase <;> simp only [exec, execPcsOrStrobesHigh, h]
  · exact memoryPins_still _ hs
  · rfl

/-- Settles O41: the source of the time tag decides which of the two edges counts it. -/
theorem timeTagCountsByItsSource : Obligations.TimeTagCountsByItsSource := by
  intro s hs
  refine ⟨fun hx => ⟨?_, ?_⟩, fun hx => ⟨?_, ?_⟩⟩
  all_goals simp only [exec, execTagclkEdge, execInternalTimeTagIncrease, whenLive_live _ s hs, hx, State.countTag, reduceCtorEq,
    if_true, if_false]

end Sys2Proof.Proofs

/-! PROOF. The processor's accesses: where an address decodes to, what the Ring Tracker answers to an access, and how the access
ends. -/

namespace Sys2Proof.Machine

open Sys2Proof Sys2Proof.Claims

/-! ### Arrivals -/

/-- The Path Unit takes the access of an arrival (R1). -/
theorem arrival_eq {c : BusCycle} {s : State} (h : Arrives c s) :
    exec (.accessArrival c) s = .next ((onBus c s).takeAccess (accessOf c)) := by
  obtain ⟨hlive, hready, hstrobe⟩ := h
  simp only [exec, execAccessArrival, busAccess_of_strobe hstrobe, hlive, hready, if_true]
  rfl

theorem lanes_of_arrival {c : BusCycle} (h : (c.pubLow || c.plbLow) = true) : (!(accessOf c).high && !(accessOf c).low) = false := by
  simp only [accessOf]
  revert h
  cases c.pubLow <;> cases c.plbLow <;> decide

/-- A ring access is answered by the judgement of the ring as it stands (R8). -/
theorem arrival_at_ring {c : BusCycle} {s : State} {r : RingId} {slot w : Nat} (h : Arrives c s)
    (hlanes : (c.pubLow || c.plbLow) = true) (hdecode : s.decode c.addr = .ring r slot w) :
    exec (.accessArrival c) s =
      .next ((onBus c s).answer (accessOf c) r slot w (s.judge (accessOf c) r slot w)) := by
  have hdecode : (onBus c s).decode (accessOf c).addr = .ring r slot w := hdecode
  rw [arrival_eq h, State.takeAccess, lanes_of_arrival hlanes, hdecode]
  rfl

theorem endAccess_eq_endedWith (s : State) : s.endAccess = endedWith s s.path.pd := by
  simp only [State.endAccess, endedWith, Option.isNone_iff_eq_none]

theorem substitute_eq_endedWith (s : State) (w : Word) : s.substitute w = endedWith s w := by
  rw [State.substitute, endAccess_eq_endedWith]
  rfl

theorem answer_hold_of_limit {s : State} {a : Access} {r : RingId} {slot w limit : Nat} (h : s.holdLimit r = limit) (hpos : 0 < limit) :
    s.answer a r slot w .hold = heldWith s a r slot w limit := by
  simp only [State.answer, h, if_pos hpos]
  rfl

theorem answer_hold_of_no_limit {s : State} {a : Access} {r : RingId} {slot w : Nat} (h : s.holdLimit r = 0) :
    s.answer a r slot w .hold = s.expire a r slot := by
  simp only [State.answer, h, Nat.lt_irrefl, if_false]

/-- A hold of a write on a stream ring that expires: REFUSED (R27, R36). -/
theorem expire_write_stream {s : State} {a : Access} {d : Word} (h : a.kind = .write d) (n : Fin 8) (slot : Nat) :
    s.expire a (.stream n) slot = endedWith (s.occur n .refused slot) s.path.pd := by
  simp only [State.expire, h, endAccess_eq_endedWith]
  rw [(occur_keeps s n .refused slot).2.1]

theorem expire_write_command {s : State} {a : Access} {d : Word} (h : a.kind = .write d) (slot : Nat) :
    s.expire a .command slot = endedWith
      { s with events := s.events.raise ⟨.cmdRefused, 0xFF, BitVec.ofNat 16 slot, 0, 0, s.time.counter⟩ } s.path.pd := by
  simp only [State.expire, h, endAccess_eq_endedWith]
  rfl

/-- A hold of a read on a stream ring that expires: EMPTY, and the idle word (R9, R32, R36). -/
theorem expire_read_stream {s : State} {a : Access} (h : a.kind = .read) (n : Fin 8) (slot : Nat) :
    s.expire a (.stream n) slot = endedWith (s.occur n .empty slot) (s.idleWord (portOf n)) := by
  simp only [State.expire, h, substitute_eq_endedWith]
  rfl

/-! ### Decoding (R4 to R6) -/

theorem windowHolds_iff {s : State} {a : Addr} {n : Fin 8} :
    s.windowHolds a n = true ↔ ∃ d, (s.stream n).active = some d ∧ (s.stream n).state ≠ .absent ∧ InWindow d a.toNat := by
  simp only [State.windowHolds, InWindow]
  cases (s.stream n).active with
  | none => simp
  | some d => simp [StreamDef.covers]

/-- Outside the control area the one window that holds the address decides. -/
theorem decode_of_window {s : State} {a : Addr} {n : Fin 8} {d : StreamDef}
    (hcontrol : ¬ (s.controlBase ≤ a.toNat ∧ a.toNat - s.controlBase < 400))
    (hn : s.windowHolds a n = true) (hd : (s.stream n).active = some d) (hother : ∀ m, m ≠ n → s.windowHolds a m = false) :
    s.decode a = .ring (.stream n) (a.toNat - d.base.toNat) 0 := by
  have hfind : allStreams.find? (s.windowHolds a) = some n := by
    cases hf : allStreams.find? (s.windowHolds a) with
    | none => exact absurd hn (List.find?_eq_none.1 hf n (mem_allStreams n))
    | some m =>
      by_cases hm : m = n
      · rw [hm]
      · exact absurd (List.find?_some hf) (by rw [hother m hm]; exact Bool.false_ne_true)
  simp only [State.decode, if_neg hcontrol, hfind, State.ringBase, hd]

theorem decode_outside {s : State} {a : Addr} (hcontrol : ¬ (s.controlBase ≤ a.toNat ∧ a.toNat - s.controlBase < 400))
    (hnone : ∀ m, s.windowHolds a m = false) : s.decode a = .outside := by
  have hfind : allStreams.find? (s.windowHolds a) = none := List.find?_eq_none.2 fun m _ => by rw [hnone m]; exact Bool.false_ne_true
  simp only [State.decode, if_neg hcontrol, hfind]

/-! ### Judgements (R24 to R34) -/

section Judge

variable {s : State} {a : Access} {r : RingId} {slot w : Nat}

theorem judge_unqualified (hr : r.supply = true) (hq : qualifyingWrite r w a = false) : s.judge a r slot w = .pass .none := by
  simp only [State.judge, hr, hq, if_true, Bool.false_eq_true, if_false]

theorem judge_qualified (hr : r.supply = true) (hq : qualifyingWrite r w a = true) : s.judge a r slot w = s.judgeWrite r slot := by
  simp only [State.judge, hr, hq, if_true]

theorem judgeWrite_post (hslot : slot = (s.ring r).producer) (hroom : (s.ring r).fill < s.slotCount r) :
    s.judgeWrite r slot = .pass (.post r) := by
  simp only [State.judgeWrite, hslot, hroom, if_true]

theorem judgeWrite_hold (hslot : slot = (s.ring r).producer) (hfull : s.slotCount r ≤ (s.ring r).fill) :
    s.judgeWrite r slot = .hold := by
  simp only [State.judgeWrite, hslot, if_true, if_neg (Nat.not_lt.2 hfull)]

theorem judgeWrite_rewrite (hslot : slot ≠ (s.ring r).producer) (hholds : (s.ring r).holds (s.slotCount r) slot = true) :
    s.judgeWrite r slot = .pass .none := by
  simp only [State.judgeWrite, if_neg hslot, hholds, if_true]

theorem judgeWrite_order {n : Fin 8} (hslot : slot ≠ (s.ring (.stream n)).producer)
    (hholds : (s.ring (.stream n)).holds (s.slotCount (.stream n)) slot = false) :
    s.judgeWrite (.stream n) slot = .pass (.order n slot) := by
  simp only [State.judgeWrite, if_neg hslot, hholds, Bool.false_eq_true, if_false]

/-- Off the producer slot a write of the command ring is a plain one. -/
theorem judgeWrite_command_off (hslot : slot ≠ (s.ring .command).producer) : s.judgeWrite .command slot = .pass .none := by
  simp only [State.judgeWrite, if_neg hslot]
  split <;> rfl

theorem judge_unread (hr : r.supply = false) (hread : a.laneRead = false) : s.judge a r slot w = .pass .none := by
  simp only [State.judge, hr, hread, Bool.false_eq_true, if_false]

theorem judge_read (hr : r.supply = false) (hread : a.laneRead = true) : s.judge a r slot w = s.judgeRead r slot w := by
  simp only [State.judge, hr, hread, Bool.false_eq_true, if_false, if_true]

theorem judgeRead_off (hslot : slot ≠ (s.ring r).consumer) : s.judgeRead r slot w = .pass .none := by
  simp only [State.judgeRead, if_neg hslot]

theorem judgeRead_consume (hslot : slot = (s.ring r).consumer) (hfill : 1 ≤ (s.ring r).fill) (hw : w = r.lastWord) :
    s.judgeRead r slot w = .pass (.consume r) := by
  simp only [State.judgeRead, hslot, if_true, if_neg (Nat.ne_of_gt hfill), hw]

theorem judgeRead_look (hfill : 1 ≤ (s.ring r).fill) (hw : w ≠ r.lastWord) : s.judgeRead r slot w = .pass .none := by
  simp only [State.judgeRead, if_neg (Nat.ne_of_gt hfill), if_neg hw]
  split <;> rfl

theorem judgeRead_empty_stream {n : Fin 8} (hslot : slot = (s.ring (.stream n)).consumer) (hfill : (s.ring (.stream n)).fill = 0) :
    s.judgeRead (.stream n) slot 0 = .hold := by
  simp only [State.judgeRead, hslot, hfill, if_true, RingId.lastWord]

theorem judgeRead_empty_event (hslot : slot = (s.ring .event).consumer) (hfill : (s.ring .event).fill = 0) :
    s.judgeRead .event slot w = .substitute 0 := by
  simp only [State.judgeRead, hslot, hfill, if_true, State.substituteWord]

/-- A slot is filled when it lies `fill` slots at most from the consumer on (R23). -/
theorem holds_iff {count : Nat} {v : Ring} (hconsumer : v.consumer < count) (hslot : slot < count) (hfill : v.fill ≤ count) :
    v.holds count slot = true ↔ Filled count v slot := by
  simp only [Ring.holds, decide_eq_true_eq, Filled]
  constructor
  · intro h
    refine ⟨_, h, ?_⟩
    rw [Nat.add_mod_mod, show v.consumer + (slot + count - v.consumer) = slot + count by omega, Nat.add_mod_right,
      Nat.mod_eq_of_lt hslot]
  · rintro ⟨j, hj, rfl⟩
    have hdistance : ((v.consumer + j) % count + count - v.consumer) % count = j := by
      by_cases hwrap : v.consumer + j < count
      · rw [Nat.mod_eq_of_lt hwrap, show v.consumer + j + count - v.consumer = j + count by omega, Nat.add_mod_right,
          Nat.mod_eq_of_lt (by omega)]
      · rw [Nat.mod_eq_sub_mod (Nat.not_lt.1 hwrap), Nat.mod_eq_of_lt (by omega : v.consumer + j - count < count),
          show v.consumer + j - count + count - v.consumer = j by omega, Nat.mod_eq_of_lt (by omega)]
    rw [hdistance]
    exact hj

end Judge

/-! ### The accesses of bus cycles -/

theorem qualifyingWrite_stream_iff {c : BusCycle} {n : Fin 8} :
    qualifyingWrite (.stream n) 0 (accessOf c) = true ↔ c.pweLow = true ∧ c.pubLow = true := by
  simp only [qualifyingWrite, accessOf]
  cases c.pweLow <;> simp [RingId.lastWord]

theorem qualifyingWrite_command_iff {c : BusCycle} {w : Nat} :
    qualifyingWrite .command w (accessOf c) = true ↔
      c.pweLow = true ∧ w = 7 ∧ c.pubLow = true ∧ c.plbLow = true ∧ lowByte c.data ≠ 0 := by
  simp only [qualifyingWrite, accessOf]
  cases c.pweLow <;> simp [RingId.lastWord, and_assoc]

theorem laneRead_of_write {c : BusCycle} (h : c.pweLow = true) : (accessOf c).laneRead = false := by
  simp [Access.laneRead, accessOf, h]

theorem laneRead_of_read {c : BusCycle} (h : c.pweLow = false) (hlanes : (c.pubLow || c.plbLow) = true) :
    (accessOf c).laneRead = true := by
  simpa [Access.laneRead, accessOf, h] using hlanes

end Sys2Proof.Machine

namespace Sys2Proof.Proofs

open Sys2Proof Sys2Proof.Machine Sys2Proof.Claims

/-- Settles O12: the control area by its offsets, the windows by the first that holds the address. -/
theorem addressesDecodeToTheirWindows : Obligations.AddressesDecodeToTheirWindows := by
  intro s a
  have hshut : ∀ m, (∀ d', (s.stream m).active = some d' → (s.stream m).state ≠ .absent →
      a.toNat < d'.base.toNat ∨ d'.base.toNat + d'.length ≤ a.toNat) → s.windowHolds a m = false := fun m h => by
    rw [Bool.eq_false_iff, Ne, windowHolds_iff]
    rintro ⟨d', hd', hstate, hlow, hhigh⟩
    obtain hout | hout := h d' hd' hstate <;> omega
  refine ⟨fun hbase hoff => ?_, fun hbase hlow hoff => ?_, fun hbase hlow hoff => ?_, fun hcontrol => ⟨?_, fun hnone => ?_⟩⟩
  · simp only [State.decode]
    rw [if_pos ⟨hbase, by omega⟩, if_pos hoff]
  · simp only [State.decode]
    rw [if_pos ⟨hbase, by omega⟩, if_neg (by omega), if_pos hoff]
  · simp only [State.decode]
    rw [if_pos ⟨hbase, by omega⟩, if_neg (by omega), if_neg (by omega)]
  · intro n d hd hstate hlow hhigh hother
    exact decode_of_window (by omega) (windowHolds_iff.2 ⟨d, hd, hstate, hlow, hhigh⟩) hd fun m hm => hshut m fun d' => hother m d' hm
  · exact decode_outside (by omega) fun m => hshut m (hnone m)

/-- Settles O13: nothing is referred to a unit, so the access is forwarded. -/
theorem unreferredAccessIsForwarded : Obligations.UnreferredAccessIsForwarded := by
  refine ⟨fun c s h hwhere => ⟨?_, rfl⟩, fun c s hlive hphase => ?_⟩
  · rw [arrival_eq h]
    obtain ⟨hhigh, hlow⟩ | hidentity | ⟨houtside, hread⟩ := hwhere
    · have hlanes : (!(accessOf c).high && !(accessOf c).low) = true := by simp [accessOf, hhigh, hlow]
      rw [State.takeAccess, if_pos hlanes]
      rfl
    · have hdecode : (onBus c s).decode (accessOf c).addr = .identity := hidentity
      rw [State.takeAccess, hdecode]
      split <;> rfl
    · have hdecode : (onBus c s).decode (accessOf c).addr = .outside := houtside
      rw [State.takeAccess, hdecode, accessOf_read hread]
      split <;> rfl
  · simp only [exec, execAccessArrival]
    split
    · rfl
    · rw [if_pos hlive]

/-- Settles O14: the cases of a qualifying write, and the plain passes. -/
theorem supplyRingAccessIsJudged : Obligations.SupplyRingAccessIsJudged := by
  refine ⟨fun c s n d slot h htx hlanes hdecode hd hconsumer hslot hfill => ?_, fun c s slot w h hlanes hdecode => ?_⟩
  · have hcount : s.slotCount (.stream n) = d.length := by simp only [State.slotCount, hd]
    have hlimit : (onBus c s).holdLimit (.stream n) = d.holdLimit := by
      simp only [State.holdLimit]
      rw [show (onBus c s).stream n = s.stream n from rfl, hd]
    have hsupply : (RingId.stream n).supply = true := htx
    have hjudged : ∀ {x}, s.judge (accessOf c) (.stream n) slot 0 = x →
        exec (.accessArrival c) s = .next ((onBus c s).answer (accessOf c) (.stream n) slot 0 x) := fun hx =>
      hx ▸ arrival_at_ring h hlanes hdecode
    have hqualified : ∀ {x}, c.pweLow = true ∧ c.pubLow = true → s.judgeWrite (.stream n) slot = x →
        exec (.accessArrival c) s = .next ((onBus c s).answer (accessOf c) (.stream n) slot 0 x) := fun hq hx =>
      hjudged ((judge_qualified hsupply (qualifyingWrite_stream_iff.2 hq)).trans hx)
    refine ⟨fun hq => ?_, fun hq hp hroom => ?_, fun hq hp hfull hhold => ?_, fun hq hp hfull hhold => ?_, fun hq hp hfilled => ?_,
      fun hq hp hfilled => ?_⟩
    · exact hjudged (judge_unqualified hsupply (Bool.eq_false_iff.2 fun h => hq (qualifyingWrite_stream_iff.1 h)))
    · exact hqualified hq (judgeWrite_post hp (hcount ▸ hroom))
    · rw [hqualified hq (judgeWrite_hold hp (by omega)), answer_hold_of_limit hlimit hhold]
    · rw [hqualified hq (judgeWrite_hold hp (by omega)), answer_hold_of_no_limit (hlimit.trans hhold),
        expire_write_stream (accessOf_write hq.1)]
      rfl
    · exact hqualified hq (judgeWrite_rewrite hp (by rw [hcount]; exact (holds_iff hconsumer hslot hfill).2 hfilled))
    · exact hqualified hq (judgeWrite_order hp (by
        rw [hcount, Bool.eq_false_iff]
        exact fun hh => hfilled ((holds_iff hconsumer hslot hfill).1 hh)))
  · have hjudged : ∀ {x}, s.judge (accessOf c) .command slot w = x →
        exec (.accessArrival c) s = .next ((onBus c s).answer (accessOf c) .command slot w x) := fun hx =>
      hx ▸ arrival_at_ring h hlanes hdecode
    refine ⟨fun hq => ?_, fun hq hp hroom => ?_, fun hq hp hfull => ?_⟩
    · refine hjudged (x := .pass .none) ?_
      by_cases hqualified : qualifyingWrite .command w (accessOf c) = true
      · rw [judge_qualified rfl hqualified]
        exact judgeWrite_command_off (hq.resolve_left fun hn => hn (qualifyingWrite_command_iff.1 hqualified))
      · exact judge_unqualified rfl (Bool.eq_false_iff.2 hqualified)
    · exact hjudged ((judge_qualified rfl (qualifyingWrite_command_iff.2 hq)).trans (judgeWrite_post hp hroom))
    · rw [hjudged ((judge_qualified rfl (qualifyingWrite_command_iff.2 hq)).trans (judgeWrite_hold hp hfull)),
        answer_hold_of_limit (limit := 50) rfl (by decide), hq.2.1]

/-- Settles O15: the cases of a read of a deposit ring, and the plain passes. -/
theorem depositRingAccessIsJudged : Obligations.DepositRingAccessIsJudged := by
  refine ⟨fun c s n d slot h hrx hlanes hdecode hd => ?_, fun c s slot w h hlanes hdecode => ?_⟩
  · have hlimit : (onBus c s).holdLimit (.stream n) = d.holdLimit := by
      simp only [State.holdLimit]
      rw [show (onBus c s).stream n = s.stream n from rfl, hd]
    have hsupply : (RingId.stream n).supply = false := hrx
    have hjudged : ∀ {x}, s.judge (accessOf c) (.stream n) slot 0 = x →
        exec (.accessArrival c) s = .next ((onBus c s).answer (accessOf c) (.stream n) slot 0 x) := fun hx =>
      hx ▸ arrival_at_ring h hlanes hdecode
    have hread : ∀ {x}, c.pweLow = false → s.judgeRead (.stream n) slot 0 = x →
        exec (.accessArrival c) s = .next ((onBus c s).answer (accessOf c) (.stream n) slot 0 x) := fun hr hx =>
      hjudged ((judge_read hsupply (laneRead_of_read hr hlanes)).trans hx)
    refine ⟨fun hplain => ?_, fun hr hslot hfill => hread hr (judgeRead_consume hslot hfill rfl), fun hr hslot hfill hhold => ?_,
      fun hr hslot hfill hhold => ?_⟩
    · cases hw : c.pweLow with
      | true => exact hjudged (judge_unread hsupply (laneRead_of_write hw))
      | false => exact hread hw (judgeRead_off (hplain.resolve_left (by rw [hw]; exact Bool.false_ne_true)))
    · rw [hread hr (judgeRead_empty_stream hslot hfill), answer_hold_of_limit hlimit hhold]
    · rw [hread hr (judgeRead_empty_stream hslot hfill), answer_hold_of_no_limit (hlimit.trans hhold),
        expire_read_stream (accessOf_read hr)]
      rfl
  · have hjudged : ∀ {x}, s.judge (accessOf c) .event slot w = x →
        exec (.accessArrival c) s = .next ((onBus c s).answer (accessOf c) .event slot w x) := fun hx =>
      hx ▸ arrival_at_ring h hlanes hdecode
    have hread : ∀ {x}, c.pweLow = false → s.judgeRead .event slot w = x →
        exec (.accessArrival c) s = .next ((onBus c s).answer (accessOf c) .event slot w x) := fun hr hx =>
      hjudged ((judge_read rfl (laneRead_of_read hr hlanes)).trans hx)
    refine ⟨fun hr hslot hfill => ?_, fun hr hslot hfill hw => hread hr (judgeRead_consume hslot hfill hw), fun hplain => ?_⟩
    · rw [hread hr (judgeRead_empty_event hslot hfill)]
      exact congrArg _ (substitute_eq_endedWith ..)
    · cases hw : c.pweLow with
      | true => exact hjudged (judge_unread rfl (laneRead_of_write hw))
      | false =>
        obtain h | hslot | ⟨hfill, hword⟩ := hplain
        · exact absurd (hw.symm.trans h) Bool.false_ne_true
        · exact hread hw (judgeRead_off hslot)
        · exact hread hw (judgeRead_look hfill hword)

/-- Settles O19: an expiry is the answer to a hold of limit 0; the strobes end what has had PRDY. -/
theorem holdExpiryAndStrobesEndTheAccess : Obligations.HoldExpiryAndStrobesEndTheAccess := by
  refine ⟨fun s h hlive hheld => ?_, fun s hheld => ?_, fun s => ⟨fun hphase => ?_, fun hphase => ?_⟩⟩
  · have hexpire : exec .holdExpiry s = .next (s.expire h.access h.ring h.slot) := by
      simp only [exec, execHoldExpiry, whenLive_live _ s hlive, hheld]
    refine ⟨fun d n hd hring => ?_, fun d hd hring => ?_, fun n hd hring => ?_⟩
    · rw [hexpire, hring, expire_write_stream hd]
    · rw [hexpire, hring, expire_write_command hd]
    · rw [hexpire, hring, expire_read_stream hd]
  · simp only [exec, execHoldExpiry, whenLive]
    split
    · cases hphase : s.path.phase with
      | held h => exact absurd hphase (hheld h)
      | _ => rfl
    · rfl
  · obtain h | h | h := hphase <;> simp only [exec, execPcsOrStrobesHigh, h] <;> rfl
  · obtain ⟨x, h⟩ | ⟨a, e, h⟩ := hphase <;> simp only [exec, execPcsOrStrobesHigh, h] <;> rw [← h] <;> rfl

end Sys2Proof.Proofs

/-! PROOF. Writes outside every window, and the completion of a forwarded access. -/

namespace Sys2Proof.Machine

open Sys2Proof Sys2Proof.Claims

/-- The hits are raised one after the other, and nothing else changes. -/
theorem raiseHits_events (s : State) (a : Access) (data : Word) (blocked : Bool) (hits : List (Fin 4)) :
    s.raiseHits a data blocked hits = { s with events := hits.foldl (fun u w => u.raise
      { kind := .watchHit, source := BitVec.ofNat 8 w.val, a := data &&& a.laneMask, b := a.addr.extractLsb' 0 16
        c := if blocked then 1 else 0, tag := s.time.counter }) s.events } := by
  induction hits generalizing s with
  | nil => rfl
  | cons w hits ih => exact ih _

/-- The bits of a word in the selected lanes. -/
theorem and_laneMask (a : Access) (data : Word) :
    data &&& a.laneMask = (if a.high then highByte data else 0) ++ (if a.low then lowByte data else 0) := by
  refine BitVec.eq_of_getLsbD_eq fun i hi => ?_
  rw [BitVec.getLsbD_and, BitVec.getLsbD_append]
  by_cases hlane : i < 8
  · have hmask : a.laneMask.getLsbD i = a.low := by
      rw [Bool.eq_iff_iff, getLsbD_laneMask a hi]
      simp [hlane, Nat.not_le.2 hlane]
    rw [if_pos hlane, hmask]
    cases a.low <;> simp [lowByte, hlane]
  · have hmask : a.laneMask.getLsbD i = a.high := by
      rw [Bool.eq_iff_iff, getLsbD_laneMask a hi]
      simp [hlane, Nat.not_lt.1 hlane]
    rw [if_neg hlane, hmask]
    cases a.high <;> simp [highByte, show i - 8 < 8 by omega, show 8 + (i - 8) = i by omega]

/-! ### PASSAGE_COMPLETE -/

theorem passage_eq {s : State} {a : Access} {e : Effect} (hlive : s.live = true) (hphase : s.path.phase = .forwarded a e)
    (huse : s.arb.use = .passage) :
    exec .passageComplete s = .next ((((s.setUse .free).ramAccess a).endAccess).makeEffect e) := by
  simp only [exec, execPassageComplete, whenLive_live _ s hlive, hphase, huse]

/-- The state before the effect: the memory cycle is done, PRDY is high, the port is free. -/
structure Cycled (s : State) (a : Access) (t : State) : Prop where
  frame : t = { s with arb := { s.arb with use := .free }
                       path := { s.path with phase := if s.path.bus = none then .ready else .ended, pd := t.path.pd }
                       mem := t.mem, freeCount := t.freeCount }
  write : ∀ d, a.kind = .write d → t.mem = Memory.store s.mem a.addr a.high a.low d ∧ t.path.pd = s.path.pd
  read : a.kind = .read → t.mem = s.mem ∧ ReadsLanes s.mem a t.path.pd

theorem cycled_of_passage (s : State) (a : Access) : Cycled s a (((s.setUse .free).ramAccess a).endAccess) := by
  rw [endAccess_eq_endedWith]
  cases hkind : a.kind with
  | read =>
    obtain ⟨hlanes, hmem, hframe⟩ := ramAccess_read (s := s.setUse .free) hkind
    refine ⟨?_, fun d hd => (nomatch hkind.symm.trans hd), fun _ => ⟨hmem, hlanes⟩⟩
    rw [hframe]
    rfl
  | write d =>
    rw [ramAccess_write hkind]
    refine ⟨rfl, fun d' hd' => ?_, fun hread => nomatch hkind.symm.trans hread⟩
    cases hkind.symm.trans hd'
    exact ⟨rfl, rfl⟩

/-- A fault changes its stream's entry and raises one event at most. -/
theorem occur_eq (s : State) (n : Fin 8) (f : StreamFault) (index : Nat) :
    s.occur n f index = { s with streams := (s.occur n f index).streams, events := (s.occur n f index).events } := by
  simp only [State.occur]
  split
  · rfl
  · split
    · rfl
    · simp only [State.raiseStream, State.raiseStreamAt]
      split
      · split <;> rfl
      · rfl

theorem occur_streams (s : State) (n : Fin 8) (f : StreamFault) (index : Nat) :
    (s.occur n f index).streams =
      if (s.stream n).state = .absent then s.streams else s.streams.set n.val ((s.stream n).occurred f) := by
  simp only [State.occur]
  split
  · rfl
  · split
    · rfl
    · simp [State.setStream]

theorem occur_events (s : State) (n : Fin 8) (f : StreamFault) (index : Nat) :
    (s.occur n f index).events =
      if (s.stream n).state = .absent ∨ (s.stream n).flag f = true then s.events
      else match (s.stream n).active with
        | none => s.events
        | some d => raisedIf d.enables.fault s.events ⟨.fault, BitVec.ofNat 8 n.val, word (f.index.val + 1), word index,
            word (satInc ((s.stream n).faultCount f)), s.time.counter⟩ := by
  have hactive : ((s.setStream n ((s.stream n).occurred f)).stream n).active = (s.stream n).active := by
    rw [setStream_stream_same]
    rfl
  simp only [State.occur]
  split
  · next h => rw [if_pos (.inl h)]
  · next h =>
    split
    · next hflag => rw [if_pos (.inr hflag)]; rfl
    · next hflag =>
      rw [if_neg (by simp [h, hflag])]
      cases hd : (s.stream n).active with
      | none => simp only [State.raiseStream, State.raiseStreamAt, hactive, hd]; rfl
      | some d =>
        rw [State.raiseStream, raiseStreamAt_eq _ _ _ _ _ _ _ _ d (hactive.trans hd)]
        rfl

/-- What a fault does to streams and events follows from streams, events and the time tag. -/
theorem occur_congr {s t : State} (hstreams : t.streams = s.streams) (hevents : t.events = s.events) (htime : t.time = s.time)
    (n : Fin 8) (f : StreamFault) (index : Nat) :
    (t.occur n f index).streams = (s.occur n f index).streams ∧ (t.occur n f index).events = (s.occur n f index).events := by
  have hstream : t.stream n = s.stream n := by rw [State.stream, State.stream, hstreams]
  exact ⟨by rw [occur_streams, occur_streams, hstreams, hstream], by rw [occur_events, occur_events, hevents, hstream, htime]⟩

theorem takeCommand_eq (s : State) : s.takeCommand = { s with cmd := s.takeCommand.cmd } := by
  obtain ⟨_, _, _, h⟩ | h := takeCommand_cases s <;> rw [h]

theorem takeCommand_takes {s : State} (hstate : s.cmd.state = .waiting) (hpart : s.start.part = .operating)
    (hfill : 1 ≤ (s.ring .command).fill) : s.takeCommand.cmd = { s.cmd with state := .reading (s.ring .command).consumer } := by
  simp only [State.takeCommand, hstate]
  rw [if_pos ⟨hpart, hfill⟩]

theorem takeCommand_leaves {s : State} (h : s.cmd.state ≠ .waiting ∨ s.start.part ≠ .operating ∨ (s.ring .command).fill = 0) :
    s.takeCommand = s := by
  obtain ⟨hstate, hpart, hfill, -⟩ | hsame := takeCommand_cases s
  · obtain h | h | h := h
    · exact absurd hstate h
    · exact absurd hpart h
    · exact absurd hfill (by omega)
  · exact hsame

/-- An effect changes rings, streams, events and the Command Unit at most. -/
theorem makeEffect_eq (s : State) (e : Effect) :
    s.makeEffect e = { s with rings := (s.makeEffect e).rings, streams := (s.makeEffect e).streams
                              events := (s.makeEffect e).events, cmd := (s.makeEffect e).cmd } := by
  cases e with
  | none => rfl
  | consume r => rfl
  | order n slot =>
    simp only [State.makeEffect]
    rw [occur_eq]
  | post r =>
    cases r with
    | command =>
      simp only [State.makeEffect]
      rw [takeCommand_eq]
      rfl
    | _ => rfl

theorem fillRing_ring_other (s : State) {r x : RingId} (h : x ≠ r) : (s.fillRing r).ring x = s.ring x :=
  setRing_ring_other _ _ _ _ h

theorem fillRing_ring_same (s : State) (r : RingId) : (s.fillRing r).ring r = (s.ring r).filled (s.slotCount r) :=
  setRing_ring_same ..

theorem consumeRing_ring_other (s : State) {r x : RingId} (h : x ≠ r) : (s.consumeRing r).ring x = s.ring x :=
  setRing_ring_other _ _ _ _ h

theorem consumeRing_ring_same (s : State) (r : RingId) : (s.consumeRing r).ring r = (s.ring r).consumed (s.slotCount r) :=
  setRing_ring_same ..

/-- A posting fills the ring; on the command ring its record may be taken (R26, R137). -/
theorem makeEffect_post (s : State) (r : RingId) :
    (s.makeEffect (.post r)).rings = (s.fillRing r).rings ∧ (s.makeEffect (.post r)).streams = s.streams ∧
      (s.makeEffect (.post r)).events = s.events ∧ (r ≠ .command → (s.makeEffect (.post r)).cmd = s.cmd) := by
  cases r with
  | command =>
    simp only [State.makeEffect]
    rw [takeCommand_eq]
    exact ⟨rfl, rfl, rfl, fun h => absurd rfl h⟩
  | _ => exact ⟨rfl, rfl, rfl, fun _ => rfl⟩

end Sys2Proof.Machine

namespace Sys2Proof.Proofs

open Sys2Proof Sys2Proof.Machine Sys2Proof.Claims

/-- Settles O17: the watches evaluate the write, the hits are raised, and a block ends the access. -/
theorem watchedWriteIsNotedOrBlocked : Obligations.WatchedWriteIsNotedOrBlocked := by
  intro c s h hw hlanes houtside
  have hdecode : (onBus c s).decode (accessOf c).addr = .outside := houtside
  rw [arrival_eq h, State.takeAccess, lanes_of_arrival hlanes, hdecode, accessOf_write hw]
  simp only [Bool.false_eq_true, if_false, State.watchWrite]
  rw [raiseHits_events, and_laneMask, endAccess_eq_endedWith, map4_eq_map]
  rfl

/-- Settles O18: the memory cycle, then the effect of the judgement. -/
theorem passageCompletesTheAccess : Obligations.PassageCompletesTheAccess := by
  intro s a e hlive hphase huse
  have hpins := memoryPins_passage s a e hlive hphase huse
  obtain ⟨hframe, hwrite, hread⟩ := cycled_of_passage s a
  have heffect := makeEffect_eq (((s.setUse .free).ramAccess a).endAccess) e
  refine ⟨_, passage_eq hlive hphase huse, ?_⟩
  generalize ((s.setUse .free).ramAccess a).endAccess = u at hframe hwrite hread heffect ⊢
  have hrings : u.rings = s.rings := by rw [hframe]
  have hstreams : u.streams = s.streams := by rw [hframe]
  have hevents : u.events = s.events := by rw [hframe]
  have hcmd : u.cmd = s.cmd := by rw [hframe]
  have hring : ∀ r, u.ring r = s.ring r := ring_of_rings hrings
  have hcount : ∀ r, u.slotCount r = s.slotCount r := slotCount_of_active fun n => by rw [State.stream, State.stream, hstreams]
  have hpath : (u.makeEffect e).path = u.path := by rw [heffect]
  have hmem : (u.makeEffect e).mem = u.mem := by rw [heffect]
  refine ⟨?_, fun hkind => ?_, fun d hkind => ?_, ?_, ?_, ?_, ?_, ?_, ?_, ?_⟩
  · rw [prdy_iff, hpath, hframe]
    constructor <;> intros <;> split <;> nofun
  · rw [hpins, Access.memoryPins, hkind]
    rfl
  · rw [hpins, Access.memoryPins, hkind]
    rfl
  · rw [heffect, hframe]
  · rw [hmem, hpath]
    exact hwrite
  · rw [hmem, hpath]
    exact fun hkind => ⟨(hread hkind).1, (hread hkind).2.high, (hread hkind).2.low⟩
  · rintro rfl
    exact ⟨hrings, hstreams, hevents, hcmd⟩
  · rintro r rfl
    obtain ⟨hrings', hstreams', hevents', hcmd'⟩ := makeEffect_post u r
    have hsame : (u.makeEffect (.post r)).ring r = (s.ring r).filled (s.slotCount r) := by
      rw [ring_of_rings hrings', fillRing_ring_same, hring, hcount]
    rw [hsame]
    refine ⟨rfl, rfl, rfl, rfl, fun x hx => ?_, hstreams'.trans hstreams, hevents'.trans hevents, fun hr => (hcmd' hr).trans hcmd,
      ?_, ?_⟩
    · rw [ring_of_rings hrings', fillRing_ring_other u hx, hring]
    · rintro rfl hstate hpart
      have htake := takeCommand_takes (s := u.fillRing .command) (by rw [← hstate, ← hcmd]; rfl) (by rw [← hpart, hframe]; rfl)
        (by rw [fillRing_ring_same]; exact Nat.succ_pos _)
      refine htake.trans ?_
      rw [fillRing_ring_same, hring, ← hcmd]
      rfl
    · rintro rfl hstop
      have hleave := takeCommand_leaves (s := u.fillRing .command) (by
        obtain h | h := hstop
        · exact .inl (by rw [← hcmd] at h; exact h)
        · exact .inr (.inl (by rw [hframe]; exact h)))
      exact (congrArg State.cmd hleave).trans hcmd
  · rintro r rfl
    have hsame : (u.makeEffect (.consume r)).ring r = (s.ring r).consumed (s.slotCount r) := by
      rw [← hring, ← hcount]
      exact consumeRing_ring_same u r
    rw [hsame]
    exact ⟨rfl, rfl, rfl, rfl, fun x hx => (consumeRing_ring_other u hx).trans (hring x), hstreams, hevents, hcmd⟩
  · rintro n slot rfl
    obtain ⟨hstreams', hevents'⟩ := occur_congr hstreams hevents (by rw [hframe]) n .order slot
    obtain ⟨-, -, -, hrings', -, -, -, -, hcmd', -⟩ := occur_keeps u n .order slot
    exact ⟨hrings'.trans hrings, hcmd'.trans hcmd, hstreams', hevents'⟩

end Sys2Proof.Proofs

/-! PROOF. The arbiter: who is granted, and what the burst granted reads or writes. -/

namespace Sys2Proof.Machine

open Sys2Proof Sys2Proof.Claims

/-! ### The round of the engines -/

theorem nextServed_eq_some {last p : Fin 4} {f : Fin 4 → Bool} (h : nextServed last f = some p) :
    f p = true ∧ ∃ k, 1 ≤ k ∧ k ≤ 4 ∧ p.val = (last.val + k) % 4 ∧
      ∀ (q : Fin 4) (j : Nat), 1 ≤ j → j < k → q.val = (last.val + j) % 4 → f q = false := by
  have hval : ∀ (q : Fin 4) (j : Nat), j < 4 → q.val = (last.val + j) % 4 → q = last + Fin.ofNat 4 j := fun q j hj hq => by
    apply Fin.ext
    rw [hq, Fin.val_add]
    simp [Nat.mod_eq_of_lt hj]
  refine ⟨List.find?_some h, ?_⟩
  simp only [nextServed, List.find?] at h
  split at h
  · cases h
    refine ⟨1, by omega, by omega, Fin.val_add .., fun q j h1 h2 => by omega⟩
  · next h1 =>
    split at h
    · cases h
      refine ⟨2, by omega, by omega, Fin.val_add .., fun q j hj1 hj2 hq => ?_⟩
      obtain rfl : j = 1 := by omega
      exact hval q 1 (by omega) hq ▸ h1
    · next h2 =>
      split at h
      · cases h
        refine ⟨3, by omega, by omega, Fin.val_add .., fun q j hj1 hj2 hq => ?_⟩
        obtain rfl | rfl : j = 1 ∨ j = 2 := by omega
        · exact hval q 1 (by omega) hq ▸ h1
        · exact hval q 2 (by omega) hq ▸ h2
      · next h3 =>
        split at h
        · cases h
          refine ⟨4, by omega, by omega, by omega, fun q j hj1 hj2 hq => ?_⟩
          obtain rfl | rfl | rfl : j = 1 ∨ j = 2 ∨ j = 3 := by omega
          · exact hval q 1 (by omega) hq ▸ h1
          · exact hval q 2 (by omega) hq ▸ h2
          · exact hval q 3 (by omega) hq ▸ h3
        · cases h

theorem mem_round : ∀ last p : Fin 4, p ∈ [last + 1, last + 2, last + 3, last] := by decide

theorem mem_allPorts : ∀ p : Fin 4, p ∈ allPorts := by decide

/-- Round the ports every one is looked at. -/
theorem nextServed_of_eligible {last p : Fin 4} {f : Fin 4 → Bool} (h : f p = true) : ∃ q, nextServed last f = some q := by
  cases hn : nextServed last f with
  | some q => exact ⟨q, rfl⟩
  | none =>
    have hmem : p ∈ [last + 1, last + 2, last + 3, last] := mem_round last p
    exact absurd h (List.find?_eq_none.1 hn p hmem)

/-! ### Who is granted -/

theorem countGrant_passedOver (s : State) (g : Option Requester) (r : Requester) :
    (s.countGrant g).passedOver r = if g = some r then 0 else if s.requesting r then s.passedOver r + 1 else s.passedOver r := by
  cases r <;> rfl

/-- It is passed over most, and of the highest rank of those. -/
def State.Leading (s : State) (rs : List Requester) (r : Requester) : Prop :=
  ∀ q ∈ rs, s.passedOver q < s.passedOver r ∨ s.passedOver q = s.passedOver r ∧ r.index ≤ q.index

theorem mostPassedOver_leads {s : State} {rs : List Requester} (hrank : rs.Pairwise fun r q => r.index < q.index) {r : Requester}
    (h : s.mostPassedOver rs = some r) : s.Leading rs r := by
  induction rs generalizing r with
  | nil => cases h
  | cons x rs ih =>
    obtain ⟨hx, hrs⟩ := List.pairwise_cons.1 hrank
    simp only [State.mostPassedOver] at h
    split at h
    · next hnone =>
      cases h
      cases rs with
      | nil => intro q hq; rw [List.mem_singleton.1 hq]; exact .inr ⟨rfl, Nat.le_refl _⟩
      | cons y ys =>
        simp only [State.mostPassedOver] at hnone
        split at hnone
        · cases hnone
        · split at hnone <;> cases hnone
    · next y hy =>
      have hlead := ih hrs hy
      have hbelow : x.index ≤ y.index := Nat.le_of_lt (hx y (mostPassedOver_mem hy))
      split at h <;> cases h
      · next hle =>
        intro q hq
        obtain rfl | hq := List.mem_cons.1 hq
        · exact .inr ⟨rfl, Nat.le_refl _⟩
        · obtain hlt | ⟨heq, hindex⟩ := hlead q hq
          · exact .inl (Nat.lt_of_lt_of_le hlt hle)
          · obtain hlt | heq' := Nat.lt_or_eq_of_le hle
            · exact .inl (heq ▸ hlt)
            · exact .inr ⟨heq.trans heq', Nat.le_trans hbelow hindex⟩
      · next hle =>
        intro q hq
        obtain rfl | hq := List.mem_cons.1 hq
        · exact .inl (Nat.not_le.1 hle)
        · exact hlead q hq

theorem mostPassedOver_of_mem {s : State} {rs : List Requester} {r : Requester} (h : r ∈ rs) : ∃ q, s.mostPassedOver rs = some q := by
  cases rs with
  | nil => cases h
  | cons x rs =>
    simp only [State.mostPassedOver]
    split
    · exact ⟨_, rfl⟩
    · split <;> exact ⟨_, rfl⟩

/-- The waiting part requesters, highest rank first. -/
theorem waiting_ranked (s : State) : (allRequesters.filter s.requesting).Pairwise fun r q => r.index < q.index :=
  List.Pairwise.filter _ (by decide)

theorem mem_waiting {s : State} {r : Requester} : r ∈ allRequesters.filter s.requesting ↔ s.requesting r = true := by
  rw [List.mem_filter]
  exact and_iff_right (by cases r <;> decide)

/-- The one requester that leads is the one taken. -/
theorem mostPassedOver_eq {s : State} {r : Requester} (hr : s.requesting r = true)
    (hlead : ∀ q, q ≠ r → s.requesting q = true →
      s.passedOver q < s.passedOver r ∨ (s.passedOver q = s.passedOver r ∧ r.index < q.index)) :
    s.mostPassedOver (allRequesters.filter s.requesting) = some r := by
  obtain ⟨q, hq⟩ := mostPassedOver_of_mem (s := s) (mem_waiting.2 hr)
  rw [hq]
  refine Classical.byContradiction fun hne => ?_
  have hne : q ≠ r := fun h => hne (congrArg some h)
  have hq' := mostPassedOver_leads (waiting_ranked s) hq r (mem_waiting.2 hr)
  have hr' := hlead q hne (mem_waiting.1 (mostPassedOver_mem hq))
  omega

theorem grant_eq {s : State} (hlive : s.live = true) (hfree : s.arb.use = .free) : exec .arbiterGrant s = .next s.grant := by
  simp only [exec, execArbiterGrant, whenLive_live _ s hlive, hfree]

theorem grant_cases (s : State) :
    s.grant = (s.countGrant none).setUse .passage ∨
    (∃ r, s.requesting r = true ∧ s.grant = (s.countGrant (some r)).startBurst r) ∨ s.grant = s := by
  simp only [State.grant]
  split
  · exact .inl rfl
  · split
    · next r hr => exact .inr (.inl ⟨r, mem_waiting.1 (mostPassedOver_mem hr), rfl⟩)
    · exact .inr (.inr rfl)

/-! ### The bursts -/

/-- The words of a fetch burst (R67). -/
def State.fetchReads (s : State) (p : Fin 4) (d : StreamDef) : List Addr :=
  let v := s.ring (.stream (txOf p))
  let room := min (d.burst (s.channels p)) (min v.fill (fifoPlaces - (s.port p).txFifo.length))
  let words := match (s.stream (txOf p)).limit with
    | none => room
    | some l => min room (l - (s.stream (txOf p)).fetched)
  (slotsFrom d.length v.consumer words).map fun i => address (d.base.toNat + i)

/-- The words of a deposit burst (R71). -/
def State.depositWrites (s : State) (p : Fin 4) (d : StreamDef) : List (Addr × Word) :=
  let v := s.ring (.stream (rxOf p))
  let samples := headSamples (s.port p).rxFifo
  let words := min (d.burst (s.channels p)) (min samples.length (d.length - v.fill))
  ((slotsFrom d.length v.producer words).map fun i => address (d.base.toNat + i)).zip (samples.take words)

section Bursts

variable {s : State}

theorem startFetch_eq {p : Fin 4} {d : StreamDef} (hserved : nextServed s.engines.lastFetch s.fetchEligible = some p)
    (hd : (s.stream (txOf p)).active = some d) :
    s.startFetch = ({ s with engines := { s.engines with lastFetch := p } }).setUse
      (.fetch { port := p, reads := s.fetchReads p d, ringStands := true, runStands := true }) := by
  simp only [State.startFetch, hserved, hd, State.fetchReads] <;> rfl

theorem fetchEligible_active {p : Fin 4} (h : s.fetchEligible p = true) : ∃ d, (s.stream (txOf p)).active = some d := by
  simp only [State.fetchEligible] at h
  split at h
  · cases h
  · next d hd => exact ⟨d, hd⟩

theorem depositEligible_active {p : Fin 4} (h : s.depositEligible p = true) : ∃ d, (s.stream (rxOf p)).active = some d := by
  simp only [State.depositEligible] at h
  split at h
  · cases h
  · next d hd => exact ⟨d, hd⟩

theorem startFetch_cases (s : State) : s.startFetch = s ∧ (∀ p, s.fetchEligible p = false) ∨ ∃ p d,
    nextServed s.engines.lastFetch s.fetchEligible = some p ∧ (s.stream (txOf p)).active = some d ∧
      s.startFetch = ({ s with engines := { s.engines with lastFetch := p } }).setUse
        (.fetch { port := p, reads := s.fetchReads p d, ringStands := true, runStands := true }) := by
  cases hserved : nextServed s.engines.lastFetch s.fetchEligible with
  | none =>
    refine .inl ⟨by simp only [State.startFetch, hserved], fun p => Bool.eq_false_iff.2 fun h => ?_⟩
    obtain ⟨q, hq⟩ := nextServed_of_eligible (last := s.engines.lastFetch) h
    exact nomatch hserved.symm.trans hq
  | some p =>
    obtain ⟨d, hd⟩ := fetchEligible_active (nextServed_eq_some hserved).1
    exact .inr ⟨p, d, rfl, hd, startFetch_eq hserved hd⟩

theorem fetchReads_length (p : Fin 4) (d : StreamDef) : (s.fetchReads p d).length =
    min (min (d.burst (s.channels p)) (min (s.ring (.stream (txOf p))).fill (32 - (s.port p).txFifo.length)))
      (match (s.stream (txOf p)).limit with
        | none => (s.ring (.stream (txOf p))).fill
        | some l => l - (s.stream (txOf p)).fetched) := by
  simp only [State.fetchReads, List.length_map, slotsFrom_length, fifoPlaces]
  cases (s.stream (txOf p)).limit with
  | none => exact (Nat.min_eq_left (Nat.le_trans (Nat.min_le_right _ _) (Nat.min_le_left _ _))).symm
  | some l => rfl

theorem depositWrites_length (p : Fin 4) (d : StreamDef) : (s.depositWrites p d).length =
    min (d.burst (s.channels p)) (min (headSamples (s.port p).rxFifo).length (d.length - (s.ring (.stream (rxOf p))).fill)) := by
  simp only [State.depositWrites, List.length_zip, List.length_map, slotsFrom_length, List.length_take]
  omega

theorem startDeposit_eq {p : Fin 4} {d : StreamDef} (hserved : nextServed s.engines.lastDeposit s.depositEligible = some p)
    (hd : (s.stream (rxOf p)).active = some d) :
    s.startDeposit = ({ s.setPort p { s.port p with rxFifo := (s.port p).rxFifo.drop (s.depositWrites p d).length } with
      engines := { s.engines with lastDeposit := p } }).setUse
      (.deposit { port := p, writes := s.depositWrites p d, ringStands := true, runStands := true }) := by
  simp only [State.startDeposit, hserved, hd, depositWrites_length]
  rfl

theorem startDeposit_cases (s : State) : s.startDeposit = s ∧ (∀ p, s.depositEligible p = false) ∨ ∃ p d,
    nextServed s.engines.lastDeposit s.depositEligible = some p ∧ (s.stream (rxOf p)).active = some d ∧
      s.startDeposit = ({ s.setPort p { s.port p with rxFifo := (s.port p).rxFifo.drop (s.depositWrites p d).length } with
        engines := { s.engines with lastDeposit := p } }).setUse
        (.deposit { port := p, writes := s.depositWrites p d, ringStands := true, runStands := true }) := by
  cases hserved : nextServed s.engines.lastDeposit s.depositEligible with
  | none =>
    refine .inl ⟨by simp only [State.startDeposit, hserved], fun p => Bool.eq_false_iff.2 fun h => ?_⟩
    obtain ⟨q, hq⟩ := nextServed_of_eligible (last := s.engines.lastDeposit) h
    exact nomatch hserved.symm.trans hq
  | some p =>
    obtain ⟨d, hd⟩ := depositEligible_active (nextServed_eq_some hserved).1
    exact .inr ⟨p, d, rfl, hd, startDeposit_eq hserved hd⟩

theorem startRecord_first (h : s.start.identity.phase = .firstDue) :
    s.startRecord = ({ s with start := { s.start with identity := { s.start.identity with phase := .secondDue } } }).setUse
      (.identityFirst (placed s.controlBase s.identityWords0)) := by
  simp only [State.startRecord, h]

theorem startRecord_second (h : s.start.identity.phase = .secondDue) :
    s.startRecord = ({ s with start := { s.start with identity := { s.start.identity with phase := .finishing } } }).setUse
      (.identitySecond (placed (s.controlBase + 8) s.identityWords1)) := by
  simp only [State.startRecord, h]

theorem startRecord_event (h : s.identityDue = false) {q : QueuedEvent} {queue : List QueuedEvent} (hq : s.events.queue = q :: queue) :
    s.startRecord = ({ s with events := { s.events with queue := queue } }).setUse (.eventRecord
      (placed (s.recordBase .event (s.ring .event).producer) (eventWords q ((s.ring .event).fill + 1)))) := by
  simp only [State.identityDue, Bool.or_eq_false_iff, beq_eq_false_iff_ne] at h
  cases hp : s.start.identity.phase with
  | firstDue => exact absurd hp h.1
  | secondDue => exact absurd hp h.2
  | idle => simp only [State.startRecord, hp, hq]
  | finishing => simp only [State.startRecord, hp, hq]

theorem startRecord_none (h : s.identityDue = false) (hq : s.events.queue = []) : s.startRecord = s := by
  simp only [State.identityDue, Bool.or_eq_false_iff, beq_eq_false_iff_ne] at h
  cases hp : s.start.identity.phase with
  | firstDue => exact absurd hp h.1
  | secondDue => exact absurd hp h.2
  | idle => simp only [State.startRecord, hp, hq]
  | finishing => simp only [State.startRecord, hp, hq]

theorem identityDue_cases (s : State) :
    s.start.identity.phase = .firstDue ∨ s.start.identity.phase = .secondDue ∨ s.identityDue = false := by
  simp only [State.identityDue]
  cases s.start.identity.phase <;> simp

/-- What a burst leaves when it starts. -/
structure BurstFrame (s t : State) : Prop where
  counts : t.arb.counts = s.arb.counts
  mem : t.mem = s.mem
  rings : t.rings = s.rings
  streams : t.streams = s.streams
  path : t.path = s.path

theorem startBurst_frame (s : State) (r : Requester) : BurstFrame s (s.startBurst r) := by
  cases r with
  | deposit =>
    simp only [State.startBurst]
    obtain ⟨h, -⟩ | ⟨p, d, -, -, h⟩ := startDeposit_cases s <;> rw [h] <;> exact ⟨rfl, rfl, rfl, rfl, rfl⟩
  | fetch =>
    simp only [State.startBurst]
    obtain ⟨h, -⟩ | ⟨p, d, -, -, h⟩ := startFetch_cases s <;> rw [h] <;> exact ⟨rfl, rfl, rfl, rfl, rfl⟩
  | record =>
    simp only [State.startBurst]
    obtain h | h | h := identityDue_cases s
    · rw [startRecord_first h]
      exact ⟨rfl, rfl, rfl, rfl, rfl⟩
    · rw [startRecord_second h]
      exact ⟨rfl, rfl, rfl, rfl, rfl⟩
    · cases hq : s.events.queue with
      | nil =>
        rw [startRecord_none h hq]
        exact ⟨rfl, rfl, rfl, rfl, rfl⟩
      | cons q queue =>
        rw [startRecord_event h hq]
        exact ⟨rfl, rfl, rfl, rfl, rfl⟩
  | command =>
    simp only [State.startBurst, State.startCommand]
    split <;> exact ⟨rfl, rfl, rfl, rfl, rfl⟩

theorem requesting_fetch_iff : s.requesting .fetch = true ↔ ∃ p, s.fetchEligible p = true := by
  simp only [State.requesting, List.any_eq_true]
  exact ⟨fun ⟨p, _, h⟩ => ⟨p, h⟩, fun ⟨p, h⟩ => ⟨p, mem_allPorts p, h⟩⟩

theorem requesting_deposit_iff : s.requesting .deposit = true ↔ ∃ p, s.depositEligible p = true := by
  simp only [State.requesting, List.any_eq_true]
  exact ⟨fun ⟨p, _, h⟩ => ⟨p, h⟩, fun ⟨p, h⟩ => ⟨p, mem_allPorts p, h⟩⟩

theorem depositing_eq_false_iff {p : Fin 4} : s.depositing p = false ↔ ∀ b, s.arb.use = .deposit b → b.port ≠ p := by
  simp only [State.depositing]
  split
  · next a ha =>
    rw [beq_eq_false_iff_ne]
    exact ⟨fun h b hb => by cases ha.symm.trans hb; exact h, fun h => h a ha⟩
  · next hnone => exact ⟨fun _ b hb => absurd hb (hnone b), fun _ => rfl⟩

theorem headSamples_pos_iff (f : List RxEntry) : 1 ≤ (headSamples f).length ↔ ∃ w c g, f = .sample w c :: g := by
  cases f with
  | nil => simp [headSamples]
  | cons x f => cases x <;> simp [headSamples]

theorem any_isMark_iff (f : List RxEntry) : f.any RxEntry.isMark = true ↔ ∃ k t, RxEntry.mark k t ∈ f := by
  rw [List.any_eq_true]
  constructor
  · rintro ⟨x, hx, hmark⟩
    cases x with
    | mark k t => exact ⟨k, t, hx⟩
    | _ => exact absurd hmark Bool.false_ne_true
  · rintro ⟨k, t, h⟩
    exact ⟨_, h, rfl⟩

theorem requesting_record_iff : s.requesting .record = true ↔ s.start.identity.phase = .firstDue ∨
    s.start.identity.phase = .secondDue ∨ (s.events.queue ≠ [] ∧ (s.ring .event).fill < 32) := by
  simp only [State.requesting, State.identityDue, State.slotCount, Bool.or_eq_true, Bool.and_eq_true, beq_iff_eq, or_assoc,
    Bool.not_eq_true', List.isEmpty_eq_false_iff]
  exact or_congr_right (or_congr_right (and_congr_right fun _ => decide_eq_true_iff))

theorem requesting_command_iff : s.requesting .command = true ↔
    (∃ slot, s.cmd.state = .reading slot) ∨ ∃ r res, s.cmd.state = .writing r res := by
  simp only [State.requesting]
  cases s.cmd.state <;> simp

/-- A requester that is granted has the memory port (R16). -/
theorem startBurst_owned {r : Requester} (h : s.requesting r = true) : ownedBy r (s.startBurst r).arb.use = true := by
  cases r with
  | deposit =>
    obtain ⟨p, hp⟩ := requesting_deposit_iff.1 h
    simp only [State.startBurst]
    obtain ⟨-, hnone⟩ | ⟨q, d, -, -, heq⟩ := startDeposit_cases s
    · exact absurd hp (by rw [hnone p]; exact Bool.false_ne_true)
    · rw [heq]
      rfl
  | fetch =>
    obtain ⟨p, hp⟩ := requesting_fetch_iff.1 h
    simp only [State.startBurst]
    obtain ⟨-, hnone⟩ | ⟨q, d, -, -, heq⟩ := startFetch_cases s
    · exact absurd hp (by rw [hnone p]; exact Bool.false_ne_true)
    · rw [heq]
      rfl
  | record =>
    simp only [State.startBurst]
    obtain hp | hp | hp := identityDue_cases s
    · rw [startRecord_first hp]
      rfl
    · rw [startRecord_second hp]
      rfl
    · cases hq : s.events.queue with
      | nil => simp [State.requesting, hp, hq] at h
      | cons q queue =>
        rw [startRecord_event hp hq]
        rfl
  | command =>
    simp only [State.startBurst, State.startCommand]
    obtain ⟨slot, hc⟩ | ⟨r, res, hc⟩ := requesting_command_iff.1 h <;> rw [hc] <;> rfl

/-- Whose burst is under way says who was granted. -/
theorem granted_of_owned (hfree : s.arb.use = .free) {r : Requester} (h : ownedBy r s.grant.arb.use = true) :
    s.requesting r = true ∧ s.grant = (s.countGrant (some r)).startBurst r := by
  obtain hg | ⟨q, hq, hg⟩ | hg := grant_cases s
  · rw [hg] at h
    cases r <;> exact absurd h Bool.false_ne_true
  · have howned : ownedBy q s.grant.arb.use = true := by
      rw [hg]
      exact startBurst_owned hq
    have hsame : q = r := by
      revert h howned
      cases s.grant.arb.use <;> cases q <;> cases r <;> simp [ownedBy]
    rw [← hsame]
    exact ⟨hq, hg⟩
  · rw [hg, hfree] at h
    cases r <;> exact absurd h Bool.false_ne_true

end Bursts

/-! ### The slots of a burst -/

theorem slotsFrom_getElem {count : Nat} (n : Nat) {i : Nat} (hi : i < count) (j : Nat) (hj : j < (slotsFrom count i n).length) :
    (slotsFrom count i n)[j] = (i + j) % count := by
  induction n generalizing i j with
  | zero => exact absurd hj (Nat.not_lt_zero j)
  | succ n ih =>
    cases j with
    | zero => exact (Nat.mod_eq_of_lt hi).symm
    | succ j =>
      refine (ih (nextSlot_lt _ _ (by omega)) j (by simpa using hj)).trans ?_
      rw [nextSlot_eq_mod hi, Nat.mod_add_mod, show i + 1 + j = i + (j + 1) by omega]

theorem headSamples_length (f : List RxEntry) : (headSamples f).length = (f.takeWhile RxEntry.isSample).length := by
  induction f with
  | nil => rfl
  | cons x f ih => cases x <;> simp [headSamples, List.takeWhile, RxEntry.isSample, ih]

theorem headSamples_getElem (f : List RxEntry) (i : Nat) (h : i < (headSamples f).length) :
    ∃ c, f[i]? = some (.sample (headSamples f)[i] c) := by
  induction f generalizing i with
  | nil => exact absurd h (Nat.not_lt_zero i)
  | cons x f ih =>
    cases x with
    | sample w c =>
      cases i with
      | zero => exact ⟨c, rfl⟩
      | succ i => exact ih i (by simpa [headSamples] using h)
    | _ => exact absurd h (Nat.not_lt_zero i)

/-! ### What a grant of each burst shows -/

section Granted

variable {s : State}

theorem granted_fetch {b : FetchBurst} (hfree : s.arb.use = .free) (h : s.grant.arb.use = .fetch b) : ∃ d,
    nextServed s.engines.lastFetch s.fetchEligible = some b.port ∧ (s.stream (txOf b.port)).active = some d ∧
    b = { port := b.port, reads := s.fetchReads b.port d, ringStands := true, runStands := true } ∧
    s.grant.engines = { s.engines with lastFetch := b.port } ∧ s.grant.ports = s.ports := by
  obtain ⟨-, hg⟩ := granted_of_owned hfree (r := .fetch) (by rw [h]; rfl)
  obtain ⟨hsame, hnone⟩ | ⟨p, d, hserved, hd, heq⟩ := startFetch_cases (s.countGrant (some .fetch))
  · rw [hg, State.startBurst, hsame] at h
    exact nomatch hfree.symm.trans h
  · rw [hg, State.startBurst, heq] at h ⊢
    cases h
    exact ⟨d, hserved, hd, rfl, rfl, rfl⟩

theorem granted_deposit {b : DepositBurst} (hfree : s.arb.use = .free) (h : s.grant.arb.use = .deposit b) : ∃ d,
    nextServed s.engines.lastDeposit s.depositEligible = some b.port ∧ (s.stream (rxOf b.port)).active = some d ∧
    b = { port := b.port, writes := s.depositWrites b.port d, ringStands := true, runStands := true } ∧
    s.grant.engines = { s.engines with lastDeposit := b.port } ∧ s.grant.ports =
      (s.setPort b.port { s.port b.port with rxFifo := (s.port b.port).rxFifo.drop (s.depositWrites b.port d).length }).ports := by
  obtain ⟨-, hg⟩ := granted_of_owned hfree (r := .deposit) (by rw [h]; rfl)
  obtain ⟨hsame, hnone⟩ | ⟨p, d, hserved, hd, heq⟩ := startDeposit_cases (s.countGrant (some .deposit))
  · rw [hg, State.startBurst, hsame] at h
    exact nomatch hfree.symm.trans h
  · rw [hg, State.startBurst, heq] at h ⊢
    cases h
    exact ⟨d, hserved, hd, rfl, rfl, rfl⟩

/-- The Record Writer's burst is that of the identity block's phase, or that of the head of the queue. -/
theorem granted_record (hfree : s.arb.use = .free) (h : ownedBy .record s.grant.arb.use = true) :
    (s.start.identity.phase = .firstDue ∧ s.grant.start.identity.phase = .secondDue ∧ s.grant.events = s.events ∧
      s.grant.arb.use = .identityFirst (placed s.controlBase s.identityWords0)) ∨
    (s.start.identity.phase = .secondDue ∧ s.grant.start.identity.phase = .finishing ∧ s.grant.events = s.events ∧
      s.grant.arb.use = .identitySecond (placed (s.controlBase + 8) s.identityWords1)) ∨
    (s.identityDue = false ∧ (s.ring .event).fill < 32 ∧ ∃ q queue, s.events.queue = q :: queue ∧
      s.grant.events = { s.events with queue := queue } ∧ s.grant.arb.use = .eventRecord
        (placed (s.recordBase .event (s.ring .event).producer) (eventWords q ((s.ring .event).fill + 1)))) := by
  obtain ⟨hrequest, hg⟩ := granted_of_owned hfree h
  have hrequest := requesting_record_iff.1 hrequest
  rw [hg, State.startBurst] at h ⊢
  obtain hp | hp | hp := identityDue_cases (s.countGrant (some .record))
  · rw [startRecord_first hp]
    exact .inl ⟨hp, rfl, rfl, rfl⟩
  · rw [startRecord_second hp]
    exact .inr (.inl ⟨hp, rfl, rfl, rfl⟩)
  · cases hq : s.events.queue with
    | nil =>
      rw [startRecord_none hp hq] at h
      exact absurd (hfree ▸ h : ownedBy .record .free = true) Bool.false_ne_true
    | cons q queue =>
      rw [startRecord_event hp hq]
      have hp' : ¬ (s.start.identity.phase = .firstDue) ∧ ¬ (s.start.identity.phase = .secondDue) := by
        simpa [State.identityDue, State.countGrant] using hp
      exact .inr (.inr ⟨hp, ((hrequest.resolve_left hp'.1).resolve_left hp'.2).2, q, queue, rfl, rfl, rfl⟩)

theorem granted_command (hfree : s.arb.use = .free) (h : ownedBy .command s.grant.arb.use = true) :
    (∃ slot, s.cmd.state = .reading slot ∧ s.grant = (s.countGrant (some .command)).setUse .commandRead) ∨
    ∃ r res, s.cmd.state = .writing r res ∧ s.grant.arb.use = .commandResult (s.resultWrites r res) := by
  obtain ⟨hrequest, hg⟩ := granted_of_owned hfree h
  obtain ⟨slot, hc⟩ | ⟨r, res, hc⟩ := requesting_command_iff.1 hrequest
  · refine .inl ⟨slot, hc, hg.trans ?_⟩
    simp only [State.startBurst, State.startCommand, show (s.countGrant (some .command)).cmd.state = .reading slot from hc]
  · refine .inr ⟨r, res, hc, ?_⟩
    rw [hg]
    simp only [State.startBurst, State.startCommand, show (s.countGrant (some .command)).cmd.state = .writing r res from hc]
    rfl

end Granted

end Sys2Proof.Machine

namespace Sys2Proof.Proofs

open Sys2Proof Sys2Proof.Machine Sys2Proof.Claims

/-- Settles O20: PASSAGE, or the one part requester that leads. -/
theorem arbiterGrantsByCountAndRank : Obligations.ArbiterGrantsByCountAndRank := by
  have hwaiting : ∀ {s : State}, (allRequesters.filter s.requesting).all (fun r => decide (s.passedOver r < 2)) = true ↔
      ∀ r, s.requesting r = true → s.passedOver r < 2 := fun {s} => by
    simp only [List.all_eq_true, mem_waiting, decide_eq_true_eq]
  refine ⟨fun s hbusy => ?_, fun s hpassage hnone => ?_, fun s hlive hfree hpassage hfew => ?_,
    fun s r hlive hfree hrequest hpassage hlead => ?_⟩
  · simp only [exec, execArbiterGrant, whenLive]
    split
    · cases huse : s.arb.use with
      | free => exact absurd huse hbusy
      | _ => rfl
    · rfl
  · have hempty : allRequesters.filter s.requesting = [] :=
      List.filter_eq_nil_iff.2 fun r _ => by rw [hnone r]; exact Bool.false_ne_true
    have hgrant : s.grant = s := by
      simp only [State.grant, hpassage, hempty, Bool.false_and, Bool.false_eq_true, if_false, State.mostPassedOver]
    simp only [exec, execArbiterGrant, whenLive, hgrant]
    split
    · split <;> rfl
    · rfl
  · have hgrant : s.grant = (s.countGrant none).setUse .passage := by
      simp only [State.grant, hpassage, hwaiting.2 hfew, Bool.true_and, if_true]
    refine ⟨_, grant_eq hlive hfree, ?_⟩
    rw [hgrant]
    refine ⟨rfl, fun r => ?_⟩
    exact (countGrant_passedOver s none r).trans (if_neg nofun)
  · have hgrant : s.grant = (s.countGrant (some r)).startBurst r := by
      have hpart : (s.passageWaiting && (allRequesters.filter s.requesting).all fun r => decide (s.passedOver r < 2)) = false := by
        rw [Bool.and_eq_false_iff]
        obtain h | ⟨q, hq, htwice⟩ := hpassage
        · exact .inl h
        · exact .inr (Bool.eq_false_iff.2 fun h => absurd (hwaiting.1 h q hq) (Nat.not_lt.2 htwice))
      simp only [State.grant, hpart, Bool.false_eq_true, if_false, mostPassedOver_eq hrequest hlead]
    have hframe := startBurst_frame (s.countGrant (some r)) r
    have hcounts : ∀ q, s.grant.passedOver q = (s.countGrant (some r)).passedOver q := fun q => by
      rw [hgrant, State.passedOver, hframe.counts]
      rfl
    have howned := startBurst_owned (s := s.countGrant (some r)) hrequest
    rw [← hgrant] at hframe howned
    refine ⟨_, grant_eq hlive hfree, howned, ?_, fun q hq => ?_, hframe.mem, hframe.rings, hframe.streams, hframe.path⟩
    · rw [hcounts, countGrant_passedOver, if_pos rfl]
    · rw [hcounts, countGrant_passedOver, if_neg fun h => hq (Option.some.inj h).symm]

/-- Settles O21: eligibility and requests, read off the model. -/
theorem enginesRequestForEligibleStreams : Obligations.EnginesRequestForEligibleStreams := by
  refine ⟨fun s p d hd => ?_, fun s p d hd => ?_, fun s => ⟨requesting_fetch_iff, requesting_deposit_iff, requesting_record_iff,
    requesting_command_iff, ?_⟩⟩
  · simp only [State.fetchEligible, hd, Bool.and_eq_true, Bool.or_eq_true, beq_iff_eq, Bool.not_eq_true', decide_eq_true_eq,
      and_assoc]
    rfl
  · simp only [State.depositEligible, hd, Bool.and_eq_true, Bool.or_eq_true, beq_iff_eq, Bool.not_eq_true', decide_eq_true_eq,
      and_assoc, or_assoc, headSamples_pos_iff, any_isMark_iff, depositing_eq_false_iff]
    rw [headSamples_length]
    rfl
  · simp only [State.passageWaiting]
    cases s.path.phase <;> simp

/-- Settles O22: the bursts are those of `fetchReads` and `depositWrites`. -/
theorem engineBurstsAreSizedAtTheGrant : Obligations.EngineBurstsAreSizedAtTheGrant := by
  refine ⟨fun s t b d hlive hfree ht hb hd hlength hconsumer => ?_, fun s t b d hlive hfree ht hb hd hlength hproducer => ?_⟩
  · rw [grant_eq hlive hfree] at ht
    cases ht
    obtain ⟨d', hserved, hd', hburst, hengines, hports⟩ := granted_fetch hfree hb
    cases hd.symm.trans hd'
    obtain ⟨heligible, k, hk⟩ := nextServed_eq_some hserved
    have hreads : b.reads = s.fetchReads b.port d := congrArg FetchBurst.reads hburst
    refine ⟨⟨k, hk.1, hk.2.1, hk.2.2.1, heligible, hk.2.2.2⟩, hengines, hports, congrArg FetchBurst.ringStands hburst,
      congrArg FetchBurst.runStands hburst, ?_, fun i hi => ?_⟩
    · rw [hreads, fetchReads_length]
      rfl
    · simp only [hreads, State.fetchReads, List.getElem_map, slotsFrom_getElem _ hconsumer]
      rfl
  · rw [grant_eq hlive hfree] at ht
    cases ht
    obtain ⟨d', hserved, hd', hburst, hengines, hports⟩ := granted_deposit hfree hb
    cases hd.symm.trans hd'
    obtain ⟨heligible, k, hk⟩ := nextServed_eq_some hserved
    have hwrites : b.writes = s.depositWrites b.port d := congrArg DepositBurst.writes hburst
    refine ⟨⟨k, hk.1, hk.2.1, hk.2.2.1, heligible, hk.2.2.2⟩, hengines, congrArg DepositBurst.ringStands hburst,
      congrArg DepositBurst.runStands hburst, ?_, fun i hi => ?_, ?_, fun q hq => ?_⟩
    · rw [hwrites, depositWrites_length, headSamples_length]
      rfl
    · simp only [hwrites]
      rw [hwrites, depositWrites_length] at hi
      obtain ⟨c, hc⟩ := headSamples_getElem (s.port b.port).rxFifo i (by omega)
      simp only [State.depositWrites, List.getElem_zip, List.getElem_map, slotsFrom_getElem _ hproducer, List.getElem_take]
      exact ⟨rfl, c, hc⟩
    · rw [State.port, hports, hwrites]
      exact setPort_port_same ..
    · rw [State.port, hports]
      exact setPort_port_other _ _ _ _ hq

/-- Settles O23: the words of the record bursts, as they are placed at the grant. -/
theorem recordBurstsCarryTheirWords : Obligations.RecordBurstsCarryTheirWords := by
  have hgrant : ∀ {s t : State}, s.live = true → s.arb.use = .free → exec .arbiterGrant s = .next t → t = s.grant :=
    fun hlive hfree ht => by
      rw [grant_eq hlive hfree] at ht
      cases ht
      rfl
  refine ⟨fun s t ws hlive hfree ht hws => ?_, fun s t ws hlive hfree ht hws => ?_, fun s t ws hlive hfree ht hws => ?_,
    fun s t ws hlive hfree ht hws => ?_, fun s t hlive hfree ht hread => ?_, rfl, rfl⟩
  all_goals obtain rfl := hgrant hlive hfree ht
  · obtain ⟨hp, hp', hevents, huse⟩ | ⟨-, -, -, huse⟩ | ⟨-, -, q, queue, -, -, huse⟩ := granted_record hfree (by rw [hws]; rfl)
    all_goals cases hws.symm.trans huse
    exact ⟨hp, hp', hevents, rfl⟩
  · obtain ⟨-, -, -, huse⟩ | ⟨hp, hp', hevents, huse⟩ | ⟨-, -, q, queue, -, -, huse⟩ := granted_record hfree (by rw [hws]; rfl)
    all_goals cases hws.symm.trans huse
    refine ⟨hp, hp', hevents, ?_⟩
    simp only [State.identityWords1]
    cases s.start.cause <;> cases s.time.source <;> rfl
  · obtain ⟨-, -, -, huse⟩ | ⟨-, -, -, huse⟩ | ⟨hdue, hfill, q, queue, hqueue, hevents, huse⟩ :=
      granted_record hfree (by rw [hws]; rfl)
    all_goals cases hws.symm.trans huse
    simp only [State.identityDue, Bool.or_eq_false_iff, beq_eq_false_iff_ne] at hdue
    exact ⟨q, queue, hqueue, hevents, hfill, hdue.1, hdue.2, rfl⟩
  · obtain ⟨slot, -, hg⟩ | ⟨r, res, hstate, huse⟩ := granted_command hfree (by rw [hws]; rfl)
    · rw [hg] at hws
      cases hws
    · cases hws.symm.trans huse
      refine ⟨r, res, hstate, ?_⟩
      simp only [State.resultWrites]
      rfl
  · obtain ⟨slot, hstate, hg⟩ | ⟨r, res, -, huse⟩ := granted_command hfree (by rw [hread]; rfl)
    · rw [hg]
      exact ⟨⟨slot, hstate⟩, rfl⟩
    · cases hread.symm.trans huse

end Sys2Proof.Proofs

/-! PROOF. The words of the engine bursts, and the end of a run: what a word that completes does to its ring, to the held access and
to the stream, and what the end of a run leaves. -/

namespace Sys2Proof.Machine

open Sys2Proof Sys2Proof.Claims

section

variable {s : State}

/-! ### Releases (R41) -/

theorem releaseAt_eq (s : State) (r : RingId) (slot : Nat) : s.releaseAt r slot = s.setPhase (s.releaseAt r slot).path.phase := by
  obtain h | ⟨x, e, -, -, -, -, -, h⟩ := releaseAt_cases s r slot <;> rw [h] <;> rfl

theorem releaseAt_forwards {x : HeldAccess} {r : RingId} {slot : Nat} {e : Effect} (hheld : s.path.phase = .held x) (hring : x.ring = r)
    (hslot : x.slot = slot) (hreleasable : x.releasable = true) (hjudge : s.judge x.access r slot x.word = .pass e) :
    s.releaseAt r slot = s.forward x.access e := by
  subst hslot
  simp only [State.releaseAt, hheld]
  rw [if_pos ⟨hring, trivial, hreleasable⟩, hjudge]

/-- An access that is not held on the slot, or that no fill releases, stays. -/
theorem releaseAt_stays {r : RingId} {slot : Nat}
    (h : ∀ x, s.path.phase = .held x → x.ring ≠ r ∨ x.slot ≠ slot ∨ x.releasable = false) : s.releaseAt r slot = s := by
  obtain hsame | ⟨x, e, hheld, hring, hslot, hreleasable, -⟩ := releaseAt_cases s r slot
  · exact hsame
  · obtain h | h | h := h x hheld
    · exact absurd hring h
    · exact absurd hslot h
    · exact absurd (hreleasable.symm.trans h) nofun

/-! ### The run limit of a transmit stream (R60, R62) -/

section Limit

variable {n : Fin 8} (htx : isTx n = true)

include htx

theorem checkLimit_tx_below (h : (s.stream n).limit ≠ some (s.stream n).fetched) : s.checkLimit n = s := by
  simp only [State.checkLimit, StreamEntry.wordsIn, htx, if_true]
  split
  · rfl
  · next l hl => rw [if_neg fun heq => h (by rw [hl, heq])]

theorem checkLimit_tx_reached (h : (s.stream n).limit = some (s.stream n).fetched) (hext : (s.stream n).extension = none) :
    s.checkLimit n = s.setStream n { s.stream n with limitReached := true } := by
  simp only [State.checkLimit, StreamEntry.wordsIn, htx, if_true, h, hext]

theorem checkLimit_tx_extended {f : Nat} (h : (s.stream n).limit = some (s.stream n).fetched)
    (hext : (s.stream n).extension = some f) :
    let e := { s.stream n with limit := some ((s.stream n).fetched + f * s.channels (portOf n)), extension := none }
    s.checkLimit n = (s.setStream n e).raiseStream n Enables.lifecycle .runExtended (word f)
      (word (e.framesRemaining n (s.channels (portOf n)))) 0 := by
  simp only [State.checkLimit, StreamEntry.wordsIn, htx, if_true, h, hext]

end Limit

/-! ### A word joins a TX FIFO (R67, R68) -/

/-- The stream's FIFO can take words of its run. -/
def Joins (e : StreamEntry) : Prop := e.state = .pending ∨ e.state = .running ∨ e.state = .stopping

/-- The word is in the FIFO and counted, the limit not yet checked. -/
def State.joined (s : State) (p : Fin 4) (w : Word) : State :=
  (s.setStream (txOf p) { s.stream (txOf p) with fetched := (s.stream (txOf p)).fetched + 1 }).setPort p
    { s.port p with txFifo := (s.port p).txFifo ++ [w] }

theorem joinTx_of_joins {p : Fin 4} (w : Word) (h : Joins (s.stream (txOf p))) :
    s.joinTx p w = (s.joined p w).checkLimit (txOf p) := by
  simp only [State.joinTx]
  split
  iterate 3 rfl
  all_goals next hs => simp [Joins, hs] at h

theorem joinTx_of_not_joins {p : Fin 4} (w : Word) (h : ¬ Joins (s.stream (txOf p))) : s.joinTx p w = s := by
  simp only [State.joinTx]
  split
  · next hs => exact absurd (.inl hs) h
  · next hs => exact absurd (.inr (.inl hs)) h
  · next hs => exact absurd (.inr (.inr hs)) h
  all_goals rfl

theorem joined_stream (s : State) (p : Fin 4) (w : Word) :
    (s.joined p w).stream (txOf p) = { s.stream (txOf p) with fetched := (s.stream (txOf p)).fetched + 1 } :=
  setStream_stream_same ..

theorem joined_stream_other (s : State) (p : Fin 4) (w : Word) {m : Fin 8} (h : m ≠ txOf p) : (s.joined p w).stream m = s.stream m :=
  setStream_stream_other _ _ _ _ h

theorem joined_port (s : State) (p : Fin 4) (w : Word) :
    (s.joined p w).port p = { s.port p with txFifo := (s.port p).txFifo ++ [w] } := setPort_port_same ..

theorem joined_port_other (s : State) (p : Fin 4) (w : Word) {q : Fin 4} (h : q ≠ p) : (s.joined p w).port q = s.port q :=
  setPort_port_other _ _ _ _ h

theorem joined_channels (s : State) (p : Fin 4) (w : Word) : (s.joined p w).channels p = s.channels p := by
  simp only [State.channels, joined_port]

theorem raiseStream_eq (s : State) (n : Fin 8) (enabled : Enables → Bool) (kind : EventKind) (a b c : Word) :
    s.raiseStream n enabled kind a b c = { s with events := (s.raiseStream n enabled kind a b c).events } := by
  obtain h | ⟨e, h⟩ := raiseStreamAt_cases s n enabled s.time.counter kind a b c
  · rw [State.raiseStream, h]
  · rw [State.raiseStream, h]
    rfl

theorem raiseStream_raised {n : Fin 8} {d : StreamDef} (hd : (s.stream n).active = some d) (enabled : Enables → Bool)
    (kind : EventKind) (a b c : Word) : s.raiseStream n enabled kind a b c =
      { s with events := raisedIf (enabled d.enables) s.events ⟨kind, BitVec.ofNat 8 n.val, a, b, c, s.time.counter⟩ } :=
  raiseStreamAt_eq s n enabled _ kind a b c d hd

/-- The limit of a transmit stream is checked in its entry and in the event queue. -/
theorem checkLimit_tx_eq {n : Fin 8} (htx : isTx n = true) :
    s.checkLimit n = { s with streams := (s.checkLimit n).streams, events := (s.checkLimit n).events } := by
  by_cases h : (s.stream n).limit = some (s.stream n).fetched
  · cases hext : (s.stream n).extension with
    | none => rw [checkLimit_tx_reached htx h hext]; rfl
    | some f =>
      rw [checkLimit_tx_extended htx h hext, raiseStream_eq]
      rfl
  · rw [checkLimit_tx_below htx h]

theorem joinTx_eq (s : State) (p : Fin 4) (w : Word) :
    s.joinTx p w = { s with streams := (s.joinTx p w).streams, ports := (s.joinTx p w).ports, events := (s.joinTx p w).events } := by
  by_cases h : Joins (s.stream (txOf p))
  · rw [joinTx_of_joins w h, checkLimit_tx_eq (isTx_txOf p)]
    rfl
  · rw [joinTx_of_not_joins w h]

/-- What the check of the run limit leaves of the entry and of the event queue, once the word is counted (R60, R62). -/
theorem joinTx_entry {p : Fin 4} (w : Word) (h : Joins (s.stream (txOf p))) :
    let e := s.stream (txOf p)
    let t := s.joinTx p w
    (e.limit ≠ some (e.fetched + 1) → t.stream (txOf p) = { e with fetched := e.fetched + 1 } ∧ t.events = s.events) ∧
    (e.limit = some (e.fetched + 1) → e.extension = none →
      t.stream (txOf p) = { e with fetched := e.fetched + 1, limitReached := true } ∧ t.events = s.events) ∧
    ∀ f, e.limit = some (e.fetched + 1) → e.extension = some f →
      t.stream (txOf p) = { e with fetched := e.fetched + 1, extension := none, limit := some (e.fetched + 1 + f * s.channels p) } ∧
      ∀ d, e.active = some d → t.events = raisedIf d.enables.lifecycle s.events
        ⟨.runExtended, BitVec.ofNat 8 (txOf p).val, BitVec.ofNat 16 f,
          BitVec.ofNat 16 (min 65535 ((e.fetched + 1 + f * s.channels p - e.taken) / s.channels p)), 0, s.time.counter⟩ := by
  have hentry := joined_stream s p w
  rw [joinTx_of_joins w h]
  refine ⟨fun hl => ?_, fun hl hext => ?_, fun f hl hext => ?_⟩
  · rw [checkLimit_tx_below (isTx_txOf p) (by rw [hentry]; exact hl)]
    exact ⟨hentry, rfl⟩
  · rw [checkLimit_tx_reached (isTx_txOf p) (by rw [hentry]; exact hl) (by rw [hentry]; exact hext), setStream_stream_same, hentry]
    exact ⟨rfl, rfl⟩
  · have hstate : (s.stream (txOf p)).state ≠ .absent ∧ (s.stream (txOf p)).state ≠ .idle := by
      obtain h | h | h := h <;> rw [h] <;> exact ⟨nofun, nofun⟩
    rw [checkLimit_tx_extended (isTx_txOf p) (by rw [hentry]; exact hl) (by rw [hentry]; exact hext), portOf_txOf, joined_channels]
    refine ⟨?_, fun d hd => ?_⟩
    · rw [raiseStream_eq, hentry]
      exact setStream_stream_same ..
    · have hframes : ∀ x : StreamEntry, x.state = (s.stream (txOf p)).state →
          x.limit = some ((s.stream (txOf p)).fetched + 1 + f * s.channels p) → x.framesRemaining (txOf p) (s.channels p) =
          min 65535 (((s.stream (txOf p)).fetched + 1 + f * s.channels p - x.taken) / s.channels p) := fun x hx hlimit => by
        rw [framesRemaining_of_limit (hx ▸ hstate.1) (hx ▸ hstate.2) hlimit, StreamEntry.wordsOut, isTx_txOf, if_pos rfl]
      rw [raiseStream_raised (d := d) (by rw [setStream_stream_same, hentry]; exact hd), hentry, hframes]
      all_goals rfl

theorem joinTx_stream_other {p : Fin 4} (w : Word) {m : Fin 8} (hm : m ≠ txOf p) : (s.joinTx p w).stream m = s.stream m := by
  by_cases h : Joins (s.stream (txOf p))
  · have hother := joined_stream_other s p w hm
    rw [joinTx_of_joins w h]
    by_cases hl : ((s.joined p w).stream (txOf p)).limit = some ((s.joined p w).stream (txOf p)).fetched
    · cases hext : ((s.joined p w).stream (txOf p)).extension with
      | none => rw [checkLimit_tx_reached (isTx_txOf p) hl hext, setStream_stream_other _ _ _ _ hm, hother]
      | some f =>
        rw [checkLimit_tx_extended (isTx_txOf p) hl hext, raiseStream_eq]
        exact (setStream_stream_other _ _ _ _ hm).trans hother
    · rw [checkLimit_tx_below (isTx_txOf p) hl, hother]
  · rw [joinTx_of_not_joins w h]

theorem joinTx_ports {p : Fin 4} (w : Word) (h : Joins (s.stream (txOf p))) : (s.joinTx p w).ports = (s.joined p w).ports := by
  rw [joinTx_of_joins w h, checkLimit_tx_eq (isTx_txOf p)]

/-! ### A word of a fetch burst -/

theorem fetchNext_of_reads {b : FetchBurst} {a : Addr} {rest : List Addr} (h : b.reads = a :: rest) :
    b.next = if rest = [] then .free else .fetch { b with reads := rest } := by
  simp only [FetchBurst.next, h, List.tail_cons]
  cases rest <;> rfl

theorem depositNext_of_writes {b : DepositBurst} {x : Addr × Word} {rest : List (Addr × Word)} (h : b.writes = x :: rest) :
    b.next = if rest = [] then .free else .deposit { b with writes := rest } := by
  simp only [DepositBurst.next, h, List.tail_cons]
  cases rest <;> rfl

theorem consumeRing_slotCount (s : State) (r x : RingId) : (s.consumeRing r).slotCount x = s.slotCount x := slotCount_setRing ..

theorem fillRing_slotCount (s : State) (r x : RingId) : (s.fillRing r).slotCount x = s.slotCount x := slotCount_setRing ..

/-- The slot of the word is consumed, and the access held on it is judged again. -/
def State.slotFetched (s : State) (b : FetchBurst) : State :=
  ((s.setUse b.next).consumeRing (.stream (txOf b.port))).releaseAt (.stream (txOf b.port)) (s.ring (.stream (txOf b.port))).consumer

theorem fetchWord_of_stands {b : FetchBurst} (hring : b.ringStands = true) (a : Addr) : s.fetchWord b a =
    if b.runStands then (s.slotFetched b).joinTx b.port (Memory.word s.mem a) else s.slotFetched b := by
  simp only [State.fetchWord, hring, if_true, State.slotFetched]

theorem fetchWord_of_gone {b : FetchBurst} (hring : b.ringStands = false) (a : Addr) : s.fetchWord b a = s.setUse b.next := by
  simp only [State.fetchWord, hring, Bool.false_eq_true, if_false]

theorem slotFetched_eq (s : State) (b : FetchBurst) : s.slotFetched b =
    { s with arb := { s.arb with use := b.next }, path := { s.path with phase := (s.slotFetched b).path.phase }
             rings := (s.consumeRing (.stream (txOf b.port))).rings } := by
  rw [State.slotFetched, releaseAt_eq]
  rfl

/-- A posting held on the slot finds room in the ring that was full (R41). -/
theorem slotFetched_forwards {b : FetchBurst} {x : HeldAccess} {d : StreamDef} {data : Word} (hheld : s.path.phase = .held x)
    (hring : x.ring = .stream (txOf b.port)) (hslot : x.slot = (s.ring (.stream (txOf b.port))).consumer) (hword : x.word = 0)
    (hreleasable : x.releasable = true) (hkind : x.access.kind = .write data) (hhigh : x.access.high = true)
    (hd : (s.stream (txOf b.port)).active = some d)
    (hempty : (s.ring (.stream (txOf b.port))).producer = (s.ring (.stream (txOf b.port))).consumer) (hlength : 0 < d.length)
    (hfull : (s.ring (.stream (txOf b.port))).fill = d.length) :
    (s.slotFetched b).path.phase = .forwarded x.access (.post (.stream (txOf b.port))) := by
  have hcount : s.slotCount (.stream (txOf b.port)) = d.length := by simp only [State.slotCount, hd]
  have hconsumed : ((s.setUse b.next).consumeRing (.stream (txOf b.port))).ring (.stream (txOf b.port)) =
      (s.ring (.stream (txOf b.port))).consumed (s.slotCount (.stream (txOf b.port))) := consumeRing_ring_same ..
  have hroom : ((s.setUse b.next).consumeRing (.stream (txOf b.port))).slotCount (.stream (txOf b.port)) = d.length :=
    (consumeRing_slotCount ..).trans hcount
  rw [State.slotFetched, releaseAt_forwards (s := (s.setUse b.next).consumeRing _) hheld hring hslot hreleasable
    (e := .post (.stream (txOf b.port)))]
  · rfl
  · rw [hword]
    refine (judge_qualified (r := .stream (txOf b.port)) (isTx_txOf b.port)
      (by simp [qualifyingWrite, hkind, hhigh, RingId.lastWord])).trans (judgeWrite_post ?_ ?_)
    · rw [hconsumed]
      exact hempty.symm
    · rw [hconsumed, hroom]
      refine (?_ : (s.ring (.stream (txOf b.port))).fill - 1 < d.length)
      omega

/-- What is held elsewhere, or cannot be released by a fill, stays held. -/
theorem slotFetched_path {b : FetchBurst} (h : ∀ x, s.path.phase = .held x →
    x.ring ≠ .stream (txOf b.port) ∨ x.slot ≠ (s.ring (.stream (txOf b.port))).consumer ∨ x.releasable = false) :
    (s.slotFetched b).path = s.path := by
  rw [State.slotFetched, releaseAt_stays (s := (s.setUse b.next).consumeRing _) h]
  rfl

/-- Beyond the slot the word changes streams, ports and events at most. -/
theorem fetched_frame (s : State) (b : FetchBurst) (w : Word) :
    let t := if b.runStands then (s.slotFetched b).joinTx b.port w else s.slotFetched b
    t = { s.slotFetched b with streams := t.streams, ports := t.ports, events := t.events } := by
  dsimp only
  split
  · exact joinTx_eq ..
  · rfl

/-- The word is in memory, and the memory port goes on to the burst's next word. -/
def State.wordStored (s : State) (b : DepositBurst) (a : Addr) (w : Word) : State :=
  { s.setUse b.next with mem := Memory.store s.mem a true true w }

/-- The slot of the word is filled, and the access held on it is judged again. -/
def State.slotDeposited (s : State) (b : DepositBurst) (a : Addr) (w : Word) : State :=
  ((s.wordStored b a w).fillRing (.stream (rxOf b.port))).releaseAt (.stream (rxOf b.port)) (s.ring (.stream (rxOf b.port))).producer

theorem slotDeposited_eq (s : State) (b : DepositBurst) (a : Addr) (w : Word) : s.slotDeposited b a w =
    { s with arb := { s.arb with use := b.next }, path := { s.path with phase := (s.slotDeposited b a w).path.phase }
             rings := (s.fillRing (.stream (rxOf b.port))).rings, mem := Memory.store s.mem a true true w } := by
  rw [State.slotDeposited, releaseAt_eq]
  rfl

/-- A read held on the slot finds it filled in the ring that was empty there (R41). -/
theorem slotDeposited_forwards {b : DepositBurst} {x : HeldAccess} (a : Addr) (w : Word) (hheld : s.path.phase = .held x)
    (hring : x.ring = .stream (rxOf b.port)) (hslot : x.slot = (s.ring (.stream (rxOf b.port))).producer) (hword : x.word = 0)
    (hreleasable : x.releasable = true) (hkind : x.access.kind = .read) (hlanes : (x.access.high || x.access.low) = true)
    (hempty : (s.ring (.stream (rxOf b.port))).consumer = (s.ring (.stream (rxOf b.port))).producer) :
    (s.slotDeposited b a w).path.phase = .forwarded x.access (.consume (.stream (rxOf b.port))) := by
  have hfilled : ((s.wordStored b a w).fillRing (.stream (rxOf b.port))).ring (.stream (rxOf b.port)) =
      (s.ring (.stream (rxOf b.port))).filled (s.slotCount (.stream (rxOf b.port))) := fillRing_ring_same ..
  rw [State.slotDeposited, releaseAt_forwards (s := (s.wordStored b a w).fillRing _) hheld hring hslot hreleasable
    (e := .consume (.stream (rxOf b.port)))]
  · rfl
  · rw [hword]
    refine (judge_read (r := .stream (rxOf b.port)) (isTx_rxOf b.port)
      (by simpa [Access.laneRead, hkind] using hlanes)).trans (judgeRead_consume ?_ ?_ rfl)
    · rw [hfilled]
      exact hempty.symm
    · rw [hfilled]
      exact Nat.succ_pos _

theorem slotDeposited_path {b : DepositBurst} (a : Addr) (w : Word) (h : ∀ x, s.path.phase = .held x →
    x.ring ≠ .stream (rxOf b.port) ∨ x.slot ≠ (s.ring (.stream (rxOf b.port))).producer ∨ x.releasable = false) :
    (s.slotDeposited b a w).path = s.path := by
  rw [State.slotDeposited, releaseAt_stays (s := (s.wordStored b a w).fillRing _) h]
  rfl

/-- The state after the count, before the marks. -/
def State.wordCounted (s : State) (b : DepositBurst) (a : Addr) (w : Word) : State :=
  if b.runStands then (s.slotDeposited b a w).countDeposit b.port else s.slotDeposited b a w

theorem depositWord_of_stands {b : DepositBurst} (hring : b.ringStands = true) (a : Addr) (w : Word) :
    s.depositWord b a w = (s.wordCounted b a w).processMarks b.port := by
  simp only [State.depositWord, hring, if_true]
  rfl

/-! ### Marks (R69) -/

/-- Without a mark at the head nothing is processed. -/
theorem processHead_unmarked {p : Fin 4} {f : List RxEntry} (h : ∀ k g rest, f ≠ .mark k g :: rest) :
    State.processHead p f s = s := by
  cases f with
  | nil => rfl
  | cons x f =>
    cases x with
    | mark k g => exact absurd rfl (h k g f)
    | _ => rfl

theorem processMarks_of_unmarked {p : Fin 4} (h : ∀ k g rest, (s.port p).rxFifo ≠ .mark k g :: rest) : s.processMarks p = s := by
  simp only [State.processMarks, processHead_unmarked h, ite_self]
  split <;> rfl

theorem processMarks_of_depositing {p : Fin 4} (h : s.depositing p = true) : s.processMarks p = s := by
  simp only [State.processMarks, h, if_true]
  split <;> rfl

theorem processMarks_out_of_run {p : Fin 4} (hrunning : (s.stream (rxOf p)).state ≠ .running)
    (hstopping : (s.stream (rxOf p)).state ≠ .stopping) : s.processMarks p = s := by
  simp only [State.processMarks]

/-- Processing marks changes streams, ports and events at most. -/
theorem processMarks_frame (s : State) (p : Fin 4) : s.processMarks p =
    { s with streams := (s.processMarks p).streams, ports := (s.processMarks p).ports, events := (s.processMarks p).events } := by
  have h := processMarks_keeps s p
  generalize s.processMarks p = t at h ⊢
  cases t
  simp_all

theorem processMark_stream_other {p : Fin 4} {m : Fin 8} (h : m ≠ rxOf p) (s : State) (kind : MarkKind) (tag : Tag) :
    (s.processMark p kind tag).stream m = s.stream m := by
  have hset : ∀ (k : EventKind) (a b c : Word) (e : State → StreamEntry),
      (((s.raiseStreamAt (rxOf p) Enables.segment tag k a b c).setStream
      (rxOf p) (e (s.raiseStreamAt (rxOf p) Enables.segment tag k a b c))).stream m) = s.stream m := fun k a b c e => by
    rw [setStream_stream_other _ _ _ _ h]
    obtain hr | ⟨x, hr⟩ := raiseStreamAt_cases s (rxOf p) Enables.segment tag k a b c <;> rw [hr]
    rfl
  cases kind with
  | segStart => exact hset _ _ _ _ fun u => { u.stream (rxOf p) with segOpen := true, segWords := 0 }
  | segEnd => exact hset _ _ _ _ fun u => { u.stream (rxOf p) with segOpen := false }

theorem processHead_stream_other {p : Fin 4} {m : Fin 8} (h : m ≠ rxOf p) (f : List RxEntry) (s : State) :
    (State.processHead p f s).stream m = s.stream m := by
  induction f generalizing s with
  | nil => rfl
  | cons x f ih =>
    cases x with
    | mark kind tag => exact (ih _).trans (processMark_stream_other h _ kind tag)
    | _ => rfl

theorem processMarks_stream_other {p : Fin 4} {m : Fin 8} (h : m ≠ rxOf p) (s : State) :
    (s.processMarks p).stream m = s.stream m := by
  simp only [State.processMarks]
  split
  · split
    · rfl
    · exact processHead_stream_other h _ s
  · split
    · rfl
    · exact processHead_stream_other h _ s
  · rfl

/-- The word is counted for the run it was deposited for (R71, R125). -/
def StreamEntry.counted (e : StreamEntry) : StreamEntry :=
  { e with deposited := e.deposited + 1, segWords := if e.segOpen then e.segWords + 1 else e.segWords }

theorem countDeposit_in_run {p : Fin 4} (h : (s.stream (rxOf p)).state = .running ∨ (s.stream (rxOf p)).state = .stopping) :
    s.countDeposit p = s.setStream (rxOf p) (s.stream (rxOf p)).counted := by
  simp only [State.countDeposit]
  split
  iterate 2 rfl
  all_goals next hs => exact absurd h (by simp [hs])

theorem countDeposit_out_of_run {p : Fin 4} (hrunning : (s.stream (rxOf p)).state ≠ .running)
    (hstopping : (s.stream (rxOf p)).state ≠ .stopping) : s.countDeposit p = s := by
  simp only [State.countDeposit]
  split
  · next h => exact absurd h hrunning
  · next h => exact absurd h hstopping
  all_goals rfl

theorem wordCounted_eq (s : State) (b : DepositBurst) (a : Addr) (w : Word) :
    s.wordCounted b a w = { s.slotDeposited b a w with streams := (s.wordCounted b a w).streams } := by
  simp only [State.wordCounted, State.countDeposit]
  split
  · split <;> rfl
  · rfl

theorem wordCounted_in_run {b : DepositBurst} (a : Addr) (w : Word)
    (h : (s.stream (rxOf b.port)).state = .running ∨ (s.stream (rxOf b.port)).state = .stopping) :
    (s.wordCounted b a w).stream (rxOf b.port) =
      if b.runStands then (s.stream (rxOf b.port)).counted else s.stream (rxOf b.port) := by
  have hstream : (s.slotDeposited b a w).stream (rxOf b.port) = s.stream (rxOf b.port) := by rw [slotDeposited_eq]; rfl
  rw [State.wordCounted]
  split
  · rw [countDeposit_in_run (by rw [hstream]; exact h), setStream_stream_same, hstream]
  · exact hstream

theorem wordCounted_out_of_run {b : DepositBurst} (a : Addr) (w : Word) (hrunning : (s.stream (rxOf b.port)).state ≠ .running)
    (hstopping : (s.stream (rxOf b.port)).state ≠ .stopping) : s.wordCounted b a w = s.slotDeposited b a w := by
  have hstream : (s.slotDeposited b a w).stream (rxOf b.port) = s.stream (rxOf b.port) := by rw [slotDeposited_eq]; rfl
  rw [State.wordCounted, countDeposit_out_of_run (by rw [hstream]; exact hrunning) (by rw [hstream]; exact hstopping), ite_self]

theorem wordCounted_stream_other (b : DepositBurst) (a : Addr) (w : Word) {m : Fin 8} (hm : m ≠ rxOf b.port) :
    (s.wordCounted b a w).stream m = s.stream m := by
  have hstream : (s.slotDeposited b a w).stream m = s.stream m := by rw [slotDeposited_eq]; rfl
  simp only [State.wordCounted, State.countDeposit]
  split
  · split
    iterate 2 exact (setStream_stream_other _ _ _ _ hm).trans hstream
    all_goals exact hstream
  · exact hstream

/-! ### The end of a run (R78) -/

theorem afterRun_of_other {u : PortUse} {n : Fin 8} (hfetch : ∀ b, u = .fetch b → txOf b.port ≠ n)
    (hdeposit : ∀ b, u = .deposit b → rxOf b.port ≠ n) : u.afterRun n = u := by
  cases u with
  | fetch b => simp only [PortUse.afterRun, if_neg (hfetch b rfl)]
  | deposit b => simp only [PortUse.afterRun, if_neg (hdeposit b rfl)]
  | _ => rfl

/-- The entry of a stream whose run is over. -/
def StreamEntry.ended (e : StreamEntry) : StreamEntry := { e with state := .idle, stopping := none, starvation := none }

theorem endRun_eq {n : Fin 8} {d : StreamDef} (hd : (s.stream n).active = some d) (why : EndReason) :
    s.endRun n why = { s.setStream n (s.stream n).ended with
      arb := { s.arb with use := s.arb.use.afterRun n }
      events := raisedIf d.enables.lifecycle s.events ⟨.streamEnded, BitVec.ofNat 8 n.val, word why.number,
        word ((s.stream n).wordsMoved n / s.channels (portOf n)), word (min 65535 (s.stream n).discarded), s.time.counter⟩ } := by
  have hactive : (((s.setUse (s.arb.use.afterRun n)).setStream n (s.stream n).ended).stream n).active = some d := by
    rw [setStream_stream_same]
    exact hd
  exact raiseStream_raised hactive _ _ _ _ _

theorem drained_iff {p : Fin 4} :
    s.drained p = true ↔ (s.port p).rxFifo = [] ∧ ∀ b, s.arb.use = .deposit b → b.port ≠ p := by
  simp only [State.drained, Bool.and_eq_true, List.isEmpty_iff, Bool.not_eq_true', depositing_eq_false_iff]

/-- With its FIFO drained a receive stream has no burst under way. -/
theorem afterRun_of_drained {p : Fin 4} (h : s.drained p = true) : s.arb.use.afterRun (rxOf p) = s.arb.use :=
  afterRun_of_other (fun _ _ => txOf_ne_rxOf _ _) fun b hb hp => (drained_iff.1 h).2 b hb (rxOf_injective _ _ hp)

end

end Sys2Proof.Machine

namespace Sys2Proof.Proofs

open Sys2Proof Sys2Proof.Machine Sys2Proof.Claims

/-- Settles O24: the slot first, then the word for the run if it still stands. -/
theorem fetchWordJoinsTheTxFifo : Obligations.FetchWordJoinsTheTxFifo := by
  intro s b a rest hlive huse hreads
  have hexec : exec .fetchWordComplete s = .next (s.fetchWord b a) := by
    simp only [exec, execFetchWordComplete, whenLive_live _ s hlive, huse, hreads]
  have hnext := fetchNext_of_reads hreads
  have hslot := slotFetched_eq s b
  have hstream : ∀ m, (s.slotFetched b).stream m = s.stream m := fun m => by rw [hslot]; rfl
  by_cases hring : b.ringStands = true
  · rw [hexec, fetchWord_of_stands hring, ← hnext]
    have hframe := fetched_frame s b (Memory.word s.mem a)
    have hrun : b.runStands = true → (if b.runStands then (s.slotFetched b).joinTx b.port (Memory.word s.mem a) else s.slotFetched b) =
        (s.slotFetched b).joinTx b.port (Memory.word s.mem a) := fun h => if_pos h
    have hover : ¬ (b.runStands = true ∧ Joins (s.stream (txOf b.port))) →
        (if b.runStands then (s.slotFetched b).joinTx b.port (Memory.word s.mem a) else s.slotFetched b) = s.slotFetched b :=
      fun h => by
        split
        · next hr => exact joinTx_of_not_joins _ (by rw [hstream]; exact fun hj => h ⟨hr, hj⟩)
        · rfl
    generalize (if b.runStands then (s.slotFetched b).joinTx b.port (Memory.word s.mem a) else s.slotFetched b) = t
      at hframe hrun hover ⊢
    have hpath : t.path = (s.slotFetched b).path := by rw [hframe]
    have hrings : t.rings = (s.consumeRing (.stream (txOf b.port))).rings := by rw [hframe, hslot]
    refine ⟨t, rfl, ?_, fun h => absurd (hring.symm.trans h) nofun, fun _ => ⟨?_, ?_, ?_, ?_, fun x hx => ?_⟩, fun hgone => ?_,
      fun ⟨_, hr, hjoins⟩ => ?_, fun x d dat _ hheld hx hxslot hword hreleasable hkind hhigh hd hempty hlength hfull => ?_,
      fun x hx hcase => hpath.trans (slotFetched_path fun y hy => by cases hx.symm.trans hy; exact hcase), fun hnone => ?_⟩
    · rw [hpath, hrings]
      refine hframe.trans ?_
      rw [hslot]
    iterate 4
      rw [ring_of_rings hrings, consumeRing_ring_same]
      rfl
    · rw [ring_of_rings hrings, consumeRing_ring_other s hx]
    · rw [hover fun h => hgone ⟨hring, h⟩, hslot]
      exact ⟨rfl, rfl, rfl⟩
    · have hjoins' : Joins ((s.slotFetched b).stream (txOf b.port)) := by rw [hstream]; exact hjoins
      have hports : (s.slotFetched b).ports = s.ports := by rw [hslot]
      have hport : ∀ q, (s.slotFetched b).port q = s.port q := fun q => by rw [State.port, State.port, hports]
      have hentry := joinTx_entry (Memory.word s.mem a) hjoins'
      have hchannels : (s.slotFetched b).channels b.port = s.channels b.port := by rw [State.channels, State.channels, hport]
      have hevents : (s.slotFetched b).events = s.events := by rw [hslot]
      have htime : (s.slotFetched b).time = s.time := by rw [hslot]
      have hjoined := joinTx_ports (Memory.word s.mem a) hjoins'
      simp only [hstream, hchannels, hevents, htime] at hentry
      rw [← hrun hr] at hentry hjoined
      refine ⟨?_, fun q hq => ?_, fun m hm => ?_, hentry⟩
      · rw [State.port, hjoined]
        exact (joined_port ..).trans (by rw [hport])
      · rw [State.port, hjoined]
        exact (joined_port_other _ _ _ hq).trans (hport q)
      · rw [hrun hr, joinTx_stream_other _ hm, hstream]
    · rw [hpath]
      exact slotFetched_forwards hheld hx hxslot hword hreleasable hkind hhigh hd hempty hlength hfull
    · rw [hpath]
      exact slotFetched_path fun x hx => absurd hx (hnone x)
  · rw [hexec, fetchWord_of_gone (Bool.eq_false_iff.2 hring), ← hnext]
    exact ⟨_, rfl, rfl, fun _ => ⟨rfl, rfl⟩, fun h => absurd h hring, fun _ => ⟨rfl, rfl, rfl⟩, fun h => absurd h.1 hring,
      fun _ _ _ h => absurd h hring, fun _ _ _ => rfl, fun _ => rfl⟩

/-- Settles O25: the slot, the count for the run, then the marks. -/
theorem depositWordFillsTheRingAndMarksFollow : Obligations.DepositWordFillsTheRingAndMarksFollow := by
  intro s b a w rest hlive huse hwrites
  have hexec : exec .depositWordComplete s = .next (s.depositWord b a w) := by
    simp only [exec, execDepositWordComplete, whenLive_live _ s hlive, huse, hwrites]
  have hnext := depositNext_of_writes hwrites
  refine ⟨fun hring => ?_, fun hring => ?_⟩
  · rw [hexec, depositWord_of_ring_gone hring, hnext]
    rfl
  · rw [hexec, depositWord_of_stands hring, ← hnext]
    have hslot := slotDeposited_eq s b a w
    have hword := wordCounted_eq s b a w
    obtain ⟨hstart, hpath, harb, hrings, hengines, hdetectors, hwatches, hcmd, htime, hmem, hfree, hpending⟩ :=
      processMarks_keeps (s.wordCounted b a w) b.port
    have hports : (s.wordCounted b a w).ports = s.ports := by rw [hword, hslot]
    have hevents : (s.wordCounted b a w).events = s.events := by rw [hword, hslot]
    have huse' : (s.wordCounted b a w).arb.use = b.next := by rw [hword, hslot]
    have hpath' : ((s.wordCounted b a w).processMarks b.port).path = (s.slotDeposited b a w).path := by rw [hpath, hword]
    have hrings' : ((s.wordCounted b a w).processMarks b.port).rings = (s.fillRing (.stream (rxOf b.port))).rings := by
      rw [hrings, hword, hslot]
    have hport : ∀ q, (s.wordCounted b a w).port q = s.port q := fun q => by rw [State.port, State.port, hports]
    refine ⟨_, rfl, ?_, ?_, ?_, ?_, ?_, fun x hx => ?_, fun m hm => ?_, fun p hp => ?_, fun hout => ?_, fun hrun hwait => ?_,
      fun d hrun hrest hd => ?_, fun x d hheld hx hxslot hxword hreleasable hkind hlanes _ hempty => ?_,
      fun x hx hcase => ?_, fun hnone => ?_⟩
    · rw [hpath', hrings']
      refine (processMarks_frame ..).trans ?_
      rw [hword, hslot]
    iterate 4
      rw [ring_of_rings hrings', fillRing_ring_same]
      rfl
    · rw [ring_of_rings hrings', fillRing_ring_other s hx]
    · exact (processMarks_stream_other hm _).trans (wordCounted_stream_other b a w hm)
    · exact ((portWork_processMarks b.port _).others p hp).1.trans (hport p)
    · have hcounted := wordCounted_out_of_run (s := s) a w (fun h => hout (.inl h)) (fun h => hout (.inr h))
      have hstays : (s.wordCounted b a w).processMarks b.port = s.slotDeposited b a w := by
        rw [hcounted]
        refine processMarks_out_of_run ?_ ?_ <;> rw [hslot]
        · exact fun h => hout (.inl h)
        · exact fun h => hout (.inr h)
      rw [hstays, hslot]
      exact ⟨rfl, rfl, rfl⟩
    · have hstays : (s.wordCounted b a w).processMarks b.port = s.wordCounted b a w := by
        obtain hrest | hunmarked := hwait
        · exact processMarks_of_depositing (by simp only [State.depositing, huse', hnext, if_neg hrest, beq_self_eq_true])
        · exact processMarks_of_unmarked (by rw [hport]; exact hunmarked)
      rw [hstays]
      exact ⟨wordCounted_in_run a w hrun, hports, hevents⟩
    · have hentry := wordCounted_in_run a w hrun
      have hactive : ((s.wordCounted b a w).stream (rxOf b.port)).active = some d := by
        rw [hentry]
        split <;> exact hd
      have hrun' : ((s.wordCounted b a w).stream (rxOf b.port)).state = .running ∨
          ((s.wordCounted b a w).stream (rxOf b.port)).state = .stopping := by
        rw [hentry]
        split <;> exact hrun
      have hfree : depositUnderWay (s.wordCounted b a w) b.port = false := by
        rw [depositUnderWay_eq, depositing_eq_false_iff, huse', hnext, if_pos hrest]
        exact fun _ h => nomatch h
      have hopen : ((s.wordCounted b a w).stream (rxOf b.port)).segOpen = (s.stream (rxOf b.port)).segOpen := by
        rw [hentry]
        split <;> rfl
      rw [ring_of_rings (hrings : _ = (s.wordCounted b a w).rings), processMarks_eq _ b.port d hactive hrun', hfree, hport,
        hevents, hopen, hentry]
      refine ⟨?_, ?_, rfl⟩
      · exact (withMarkWork_stream ..).trans (by rw [hentry]; rfl)
      · refine (withMarkWork_port ..).trans ?_
        rw [hport]
        rfl
    · rw [hpath']
      exact slotDeposited_forwards a w hheld hx hxslot hxword hreleasable hkind hlanes hempty
    · exact hpath'.trans (slotDeposited_path a w fun y hy => by cases hx.symm.trans hy; exact hcase)
    · exact hpath'.trans (slotDeposited_path a w fun x hx => absurd hx (hnone x))

/-- Settles O39: the run of a drained receive stream ends. -/
theorem receiveRunEndsWhenDrained : Obligations.ReceiveRunEndsWhenDrained := by
  intro s p hlive
  have hends : ∀ (ds : StreamDef) (why : EndReason), s.drained p = true → (s.stream (rxOf p)).active = some ds →
      s.endRun (rxOf p) why = { s.setStream (rxOf p) (s.stream (rxOf p)).ended with
        events := raisedIf ds.enables.lifecycle s.events ⟨.streamEnded, BitVec.ofNat 8 (rxOf p).val, word why.number,
          wholeFrames (s.stream (rxOf p)).deposited (s.channels p),
          BitVec.ofNat 16 (min 65535 (s.stream (rxOf p)).discarded), s.time.counter⟩ } := fun ds why hdrained hd => by
    rw [endRun_eq hd, afterRun_of_drained hdrained, portOf_rxOf, StreamEntry.wordsMoved, isTx_rxOf]
    rfl
  refine ⟨fun ds hdrained hd hstate => ?_, fun ds hdrained hd hstate hlimit => ?_, fun hnot => ?_, fun hnot => ?_⟩
  · simp only [exec, execRxStoppingDrained, whenLive_live _ s hlive]
    rw [if_pos ⟨hstate, drained_iff.2 hdrained⟩, hends ds .stopped (drained_iff.2 hdrained) hd]
    rfl
  · simp only [exec, execRxRunComplete, whenLive_live _ s hlive]
    rw [if_pos ⟨hstate, hlimit, drained_iff.2 hdrained⟩, hends ds .complete (drained_iff.2 hdrained) hd]
    rfl
  · simp only [exec, execRxStoppingDrained, whenLive_live _ s hlive]
    rw [if_neg fun h => hnot.elim (fun hd => hd (drained_iff.1 h.2)) fun hs => hs h.1]
  · simp only [exec, execRxRunComplete, whenLive_live _ s hlive]
    rw [if_neg]
    rintro ⟨hstate, hlimit, hdrained⟩
    obtain h | h | h := hnot
    · exact h (drained_iff.1 hdrained)
    · exact h hstate
    · exact nomatch hlimit.symm.trans h

end Sys2Proof.Proofs

/-! PROOF. What the records of the command ring and of the event ring do when their bursts complete, the counting of events and faults,
and the checks of the number field. -/

namespace Sys2Proof.Machine

open Sys2Proof Sys2Proof.Claims

section

variable {s : State}

/-! ### Results (R140, R188) -/

theorem commandFor_eq : ∀ code : Byte, commandFor code = commandOfCode code := by decide

theorem afterResult_of_other {r : CommandRecord} (h : r.code ≠ 0x1F) : s.afterResult r = s := if_neg h

theorem afterResult_of_reset {r : CommandRecord} (h : r.code = 0x1F) :
    s.afterResult r = { s with start := { s.start with cause := .resetPart, identity := s.start.identity.request } } := if_pos h

theorem afterResult_eq (s : State) (r : CommandRecord) : s.afterResult r = { s with start := (s.afterResult r).start } := by
  by_cases h : r.code = 0x1F
  · rw [afterResult_of_reset h]
  · rw [afterResult_of_other h]

theorem afterResult_part (s : State) (r : CommandRecord) : (s.afterResult r).start.part = s.start.part := by
  by_cases h : r.code = 0x1F
  · rw [afterResult_of_reset h]
  · rw [afterResult_of_other h]

theorem request_cases (i : IdentityWrite) :
    (i.phase = .idle → i.request = { i with phase := .firstDue }) ∧ (i.phase = .firstDue → i.request = i) ∧
    (i.phase = .secondDue ∨ i.phase = .finishing → i.request = { i with owed := true }) := by
  refine ⟨fun h => ?_, fun h => ?_, fun h => ?_⟩
  · simp only [IdentityWrite.request, h]
  · simp only [IdentityWrite.request, h]
  · obtain h | h := h <;> simp only [IdentityWrite.request, h]

/-- The result is in memory, its record is consumed, and the access held on the record is judged again. -/
def State.resultLanded (s : State) (r : CommandRecord) (ws : List (Addr × Word)) : State :=
  ((s.landBurst ws).consumeRing .command).releaseAt .command r.slot

/-- The Command Unit waits again; RESET PART has its effects on Start-up Control. -/
def State.resultDone (s : State) (r : CommandRecord) (ws : List (Addr × Word)) : State :=
  { (s.resultLanded r ws).afterResult r with cmd := { s.cmd with state := .waiting } }

theorem resultLanded_eq (s : State) (r : CommandRecord) (ws : List (Addr × Word)) : s.resultLanded r ws =
    { s with arb := { s.arb with use := .free }, path := { s.path with phase := (s.resultLanded r ws).path.phase }
             rings := (s.consumeRing .command).rings, mem := Memory.storeAll s.mem ws } := by
  rw [State.resultLanded, releaseAt_eq]
  rfl

/-- A posting held on the record finds room in the ring that was full (R41). -/
theorem resultLanded_forwards {r : CommandRecord} {ws : List (Addr × Word)} {x : HeldAccess} {d : Word} (hheld : s.path.phase = .held x)
    (hring : x.ring = .command) (hslot : x.slot = r.slot) (hconsumer : r.slot = (s.ring .command).consumer)
    (hempty : (s.ring .command).producer = (s.ring .command).consumer) (hfull : (s.ring .command).fill = 16) (hword : x.word = 7)
    (hreleasable : x.releasable = true) (hkind : x.access.kind = .write d) (hhigh : x.access.high = true)
    (hlow : x.access.low = true) (hcode : lowByte d ≠ 0) :
    (s.resultLanded r ws).path.phase = .forwarded x.access (.post .command) := by
  have hconsumed : ((s.landBurst ws).consumeRing .command).ring .command = (s.ring .command).consumed 16 := consumeRing_ring_same ..
  rw [State.resultLanded, releaseAt_forwards (s := (s.landBurst ws).consumeRing .command) hheld hring hslot hreleasable
    (e := .post .command)]
  · rfl
  · rw [hword]
    refine (judge_qualified (r := .command) rfl ?_).trans (judgeWrite_post ?_ ?_)
    · simpa [qualifyingWrite, hkind, hhigh, hlow, RingId.lastWord] using hcode
    · rw [hconsumed, hconsumer]
      exact hempty.symm
    · rw [hconsumed]
      refine (?_ : (s.ring .command).fill - 1 < 16)
      omega

theorem resultLanded_path {r : CommandRecord} (ws : List (Addr × Word)) (h : ∀ x, s.path.phase = .held x →
    x.ring ≠ .command ∨ x.slot ≠ r.slot ∨ x.releasable = false) : (s.resultLanded r ws).path = s.path := by
  rw [State.resultLanded, releaseAt_stays (s := (s.landBurst ws).consumeRing .command) h]
  rfl

theorem resultDone_eq (s : State) (r : CommandRecord) (ws : List (Addr × Word)) : s.resultDone r ws =
    { s.resultLanded r ws with start := ((s.resultLanded r ws).afterResult r).start, cmd := { s.cmd with state := .waiting } } := by
  rw [State.resultDone, afterResult_eq]

theorem commandResultWritten_eq {r : CommandRecord} {res : CommandResult} {ws : List (Addr × Word)} (hlive : s.live = true)
    (huse : s.arb.use = .commandResult ws) (hstate : s.cmd.state = .writing r res) :
    exec .commandResultWritten s = .next (s.resultDone r ws).takeCommand := by
  have hcmd : ((s.resultLanded r ws).afterResult r).cmd = s.cmd := by rw [afterResult_eq, resultLanded_eq]
  simp only [exec, execCommandResultWritten, whenLive_live _ s hlive, huse, hstate]
  rw [State.resultDone, ← hcmd]
  rfl

/-! ### INT# (R172, R173) -/

theorem int_level (hlive : s.live = true) (hline : s.events.line = .level) : s.int = decide ((s.ring .event).fill = 0) := by
  simp only [State.int, hlive, hline, if_true]

theorem int_pulse (hlive : s.live = true) (hline : s.events.line = .pulse) : s.int = s.events.pulse.isNone := by
  simp only [State.int, hlive, hline, if_true]

theorem recordWritten_level {u : EventUnit} (h : u.line = .level) : u.recordWritten = u := by
  simp only [EventUnit.recordWritten, h]

theorem recordWritten_pulse {u : EventUnit} (h : u.line = .pulse) : u.recordWritten = { u with pulse := some 0 } := by
  simp only [EventUnit.recordWritten, h]

/-- The record is in memory and fills its slot; in PULSE mode a pulse begins. -/
def State.recordLanded (s : State) (ws : List (Addr × Word)) : State :=
  { (s.landBurst ws).fillRing .event with events := s.events.recordWritten }

theorem recordLanded_ring (s : State) (ws : List (Addr × Word)) : (s.recordLanded ws).ring .event = (s.ring .event).filled 32 :=
  fillRing_ring_same (s.landBurst ws) .event

theorem recordLanded_int (ws : List (Addr × Word)) (hlive : s.live = true) : (s.recordLanded ws).int = false := by
  cases hl : s.events.line with
  | level =>
    rw [int_level (s := s.recordLanded ws) hlive ((congrArg EventUnit.line (recordWritten_level hl)).trans hl), recordLanded_ring]
    exact decide_eq_false (Nat.succ_ne_zero _)
  | pulse =>
    rw [int_pulse (s := s.recordLanded ws) hlive ((congrArg EventUnit.line (recordWritten_pulse hl)).trans hl)]
    exact congrArg (fun u => Option.isNone (EventUnit.pulse u)) (recordWritten_pulse hl)

/-! ### The number field (R143) -/

/-- A command whose effects go through `withPresent` refuses an ABSENT stream. -/
theorem absentRefused_of_withPresent {i : Instr} {code : Byte}
    {f : CommandRecord → State → Fin 8 → StreamEntry → State × CommandResult}
    (hexec : exec i = execute i fun r s => withStream r s fun n => withPresent n s (f r s n)) (hcode : commandOfCode code = i) :
    AbsentRefused i code := by
  intro s r n hx hn habsent
  rw [hexec]
  refine execute_answers hx hcode ?_
  rw [withStream_of_number hn, withPresent_of_absent habsent]
  rfl

end

end Sys2Proof.Machine

namespace Sys2Proof.Proofs

open Sys2Proof Sys2Proof.Machine Sys2Proof.Claims

/-- Settles O26: the record is read, its command alone is taken, and its result consumes it. -/
theorem commandRecordIsReadAndItsResultConsumesIt : Obligations.CommandRecordIsReadAndItsResultConsumesIt := by
  refine ⟨fun s slot hlive huse hstate => ?_, fun s r res ws hlive huse hstate hfill hconsumer => ?_, fun tag code => ?_,
    fun s c hc hother => ?_⟩
  · simp only [exec, execCommandRecordRead, whenLive_live _ s hlive, huse, hstate]
    rfl
  · have hlanded := resultLanded_eq s r ws
    have hdone := resultDone_eq s r ws
    have htake := takeCommand_eq (s.resultDone r ws)
    have hpath : (s.resultDone r ws).takeCommand.path = (s.resultLanded r ws).path := by rw [htake, hdone]
    have hstart : (s.resultDone r ws).takeCommand.start = ((s.resultLanded r ws).afterResult r).start := by rw [htake, hdone]
    have hrings : (s.resultDone r ws).takeCommand.rings = (s.consumeRing .command).rings := by rw [htake, hdone, hlanded]
    have hring : (s.resultDone r ws).ring .command = (s.ring .command).consumed 16 :=
      (ring_of_rings (by rw [hdone, hlanded]) _).trans (consumeRing_ring_same ..)
    have hpart : (s.resultDone r ws).start.part = s.start.part := by
      refine (afterResult_part ..).trans ?_
      rw [hlanded]
    have hbefore : (s.resultLanded r ws).start = s.start := by rw [hlanded]
    refine ⟨_, commandResultWritten_eq hlive huse hstate, ?_, ?_, fun x hx => ?_, fun hstop => ?_, fun hfill' hop => ?_,
      fun hcode => ?_, fun hcode => ?_,
      fun x d hheld hx hxslot hrslot hempty hfull hword hreleasable hkind hhigh hlow hd => ?_, fun x hx hcase => ?_, fun hnone => ?_⟩
    · rw [hpath, hrings, hstart]
      refine htake.trans ?_
      rw [hdone, hlanded]
    · rw [ring_of_rings hrings, consumeRing_ring_same]
      refine congrArg (fun i => { s.ring .command with consumer := i, fill := (s.ring .command).fill - 1 }) ?_
      exact nextSlot_eq_mod hconsumer
    · rw [ring_of_rings hrings, consumeRing_ring_other s hx]
    · rw [takeCommand_leaves]
      · rfl
      · refine .inr (hstop.symm.imp (fun h => hpart ▸ h) fun h => ?_)
        rw [hring]
        exact Nat.sub_eq_zero_of_le (Nat.le_of_eq h)
    · rw [takeCommand_takes rfl (hpart.trans hop) (by rw [hring]; exact Nat.le_sub_of_add_le hfill'), hring]
      exact congrArg (fun i => { s.cmd with state := .reading i }) (nextSlot_eq_mod hconsumer)
    · rw [hstart, afterResult_of_other hcode, hbefore]
    · rw [hstart, afterResult_of_reset hcode, hbefore]
      exact ⟨rfl, request_cases s.start.identity⟩
    · rw [hpath]
      exact resultLanded_forwards hheld hx hxslot hrslot hempty hfull hword hreleasable hkind hhigh hlow hd
    · exact hpath.trans (resultLanded_path ws fun y hy => by cases hx.symm.trans hy; exact hcase)
    · exact hpath.trans (resultLanded_path ws fun x hx => absurd hx (hnone x))
  · rw [decodeTableWord_of_word7, commandFor_eq]
  · obtain ⟨f, hexec, -⟩ := exec_eq_execute hc
    rw [hexec]
    by_cases hs : ∃ r, s.cmd.state = .executing r
    · obtain ⟨r, hr⟩ := hs
      exact execute_of_other_code f hr fun h => hother r hr ((commandFor_eq _).trans h).symm
    · exact execute_of_no_record f fun r hr => hs ⟨r, hr⟩

/-- Settles O27: the record fills its slot, and INT# follows. -/
theorem eventRecordMovesTheInterruptLine : Obligations.EventRecordMovesTheInterruptLine := by
  refine ⟨fun s ws hlive huse hproducer => ?_, fun s hlive => ?_, fun s hlive hline => ?_, fun s hlive hline => ?_, fun s hdead => ?_⟩
  · refine ⟨s.recordLanded ws, ?_, recordLanded_int ws hlive, ?_, ?_, fun x hx => fillRing_ring_other (s.landBurst ws) hx⟩
    · simp only [exec, execEventRecordWritten, whenLive_live _ s hlive, huse]
      rfl
    · cases hl : s.events.line with
      | level =>
        rw [State.recordLanded, recordWritten_level hl]
        rfl
      | pulse =>
        rw [State.recordLanded, recordWritten_pulse hl]
        rfl
    · rw [recordLanded_ring]
      exact congrArg (fun i => { (s.ring .event).filled 32 with producer := i }) (nextSlot_eq_mod hproducer)
  · simp only [exec, execIntPulseEnd, whenLive_live _ s hlive]
  · rw [int_level hlive hline, decide_eq_false_iff_not]
    omega
  · rw [int_pulse hlive hline, Option.isNone_eq_false_iff, Option.isSome_iff_exists]
  · simp only [State.int, hdead, Bool.false_eq_true, if_false]

/-- Settles O28: the queue and the counts saturate, and FAULT comes with the flag. -/
theorem eventsAndFaultsAreCounted : Obligations.EventsAndFaultsAreCounted := by
  have hsat : ∀ k : Nat, k ≤ 65535 → satInc k = min 65535 (k + 1) := fun k hk => by
    rw [satInc]
    split <;> omega
  refine ⟨fun u e h => if_pos h, fun u e hfull hd => ?_, fun s n f index habsent => if_pos habsent,
    fun s n f index d hpresent hd hcount => ⟨occur_eq .., fun m hm => ?_, ?_, ?_⟩⟩
  · rw [← hsat _ hd]
    exact if_neg (Nat.not_lt.2 hfull)
  · rw [State.stream, occur_streams, if_neg hpresent]
    exact setStream_stream_other s _ _ _ hm
  · rw [State.stream, occur_streams, if_neg hpresent, ← hsat _ hcount]
    exact setStream_stream_same s _ _
  · rw [occur_events, hd, ← hsat _ hcount]
    cases hflag : (s.stream n).flag f with
    | true => simp [raisedIf]
    | false =>
      rw [if_neg (by simp [hpresent])]
      simp only [Bool.not_false, Bool.and_true]
      rfl

/-- Settles O42: the number comes before the presence, and both before the command's own checks. -/
theorem numbersAreCheckedFirst : Obligations.NumbersAreCheckedFirst := by
  refine ⟨fun s r i code hi => ?_, fun s r i code hi => ?_, fun s r i code n hi => ?_⟩
  · simp only [List.mem_cons, List.not_mem_nil, or_false, Prod.mk.injEq] at hi
    obtain ⟨rfl, rfl⟩ | ⟨rfl, rfl⟩ | ⟨rfl, rfl⟩ | ⟨rfl, rfl⟩ | ⟨rfl, rfl⟩ | ⟨rfl, rfl⟩ | ⟨rfl, rfl⟩ | ⟨rfl, rfl⟩ |
      ⟨rfl, rfl⟩ := hi
    all_goals exact numberChecked_of_withStream rfl rfl s r
  · simp only [List.mem_cons, List.not_mem_nil, or_false, Prod.mk.injEq] at hi
    obtain ⟨rfl, rfl⟩ | ⟨rfl, rfl⟩ | ⟨rfl, rfl⟩ | ⟨rfl, rfl⟩ := hi
    all_goals exact numberChecked_of_withObject rfl rfl s r
  · simp only [List.mem_cons, List.not_mem_nil, or_false, Prod.mk.injEq] at hi
    obtain ⟨rfl, rfl⟩ | ⟨rfl, rfl⟩ | ⟨rfl, rfl⟩ | ⟨rfl, rfl⟩ | ⟨rfl, rfl⟩ := hi
    all_goals exact absentRefused_of_withPresent rfl rfl s r n

end Sys2Proof.Proofs

/-! PROOF. Runs that are cut, stopped or reset: STOP, ABORT and RESET PART, and the two queries that report faults and ports. -/

namespace Sys2Proof.Machine

open Sys2Proof Sys2Proof.Claims

section

variable {s : State}

theorem setStream_setStream (s : State) (n : Fin 8) (e e' : StreamEntry) : (s.setStream n e).setStream n e' = s.setStream n e' := by
  simp [State.setStream]

theorem setPort_setPort (s : State) (p : Fin 4) (q q' : PortEntry) : (s.setPort p q).setPort p q' = s.setPort p q' := by
  simp [State.setPort]

theorem channels_setPort (s : State) {p : Fin 4} {q : PortEntry} (h : q.active = (s.port p).active) :
    (s.setPort p q).channels p = s.channels p := by
  simp only [State.channels, setPort_port_same, h]

/-! ### Events of a stream that may have no definition -/

/-- The event is raised if the stream has a definition that enables its kind. -/
def raisedBy (d : Option StreamDef) (enabled : Enables → Bool) (u : EventUnit) (e : Event) : EventUnit :=
  match d with
  | none => u
  | some d => raisedIf (enabled d.enables) u e

theorem raiseStreamAt_raisedBy (s : State) (n : Fin 8) (enabled : Enables → Bool) (tag : Tag) (kind : EventKind) (a b c : Word) :
    s.raiseStreamAt n enabled tag kind a b c =
      { s with events := raisedBy (s.stream n).active enabled s.events ⟨kind, BitVec.ofNat 8 n.val, a, b, c, tag⟩ } := by
  cases hd : (s.stream n).active with
  | none => simp only [State.raiseStreamAt, hd]; rfl
  | some d => rw [raiseStreamAt_eq _ _ _ _ _ _ _ _ d hd]; rfl

/-- STREAM_ENDED of an entry, at the end of its run. -/
def StreamEntry.endEvent (e : StreamEntry) (n : Fin 8) (why : EndReason) (C : Nat) (tag : Tag) : Event :=
  ⟨.streamEnded, BitVec.ofNat 8 n.val, word why.number, word (e.wordsMoved n / C), word (min 65535 e.discarded), tag⟩

theorem endRun_raisedBy (s : State) (n : Fin 8) (why : EndReason) :
    s.endRun n why = { s.setStream n (s.stream n).ended with
      arb := { s.arb with use := s.arb.use.afterRun n }
      events := raisedBy (s.stream n).active Enables.lifecycle s.events
        ((s.stream n).endEvent n why (s.channels (portOf n)) s.time.counter) } := by
  have hactive : (((s.setUse (s.arb.use.afterRun n)).setStream n (s.stream n).ended).stream n).active = (s.stream n).active := by
    rw [setStream_stream_same]
    rfl
  refine (raiseStreamAt_raisedBy _ n Enables.lifecycle _ _ _ _ _).trans ?_
  rw [show (((s.setUse (s.arb.use.afterRun n)).setStream n { s.stream n with state := .idle, stopping := none, starvation := none }).stream
    n).active = (s.stream n).active from hactive]
  rfl

/-! ### A run that is cut (R59, R126) -/

/-- The words of the FIFO of stream n that are thrown out. -/
def State.thrown (s : State) (n : Fin 8) : Nat :=
  if isTx n then (s.port (portOf n)).txFifo.length else sampleCount (s.port (portOf n)).rxFifo

/-- The entry of a stream whose run is cut. -/
def StreamEntry.cut (e : StreamEntry) (n : Fin 8) (thrown : Nat) : StreamEntry :=
  { e with
    state := .idle, stopping := none, starvation := none, discarded := e.discarded + thrown
    gateOpen := e.gateOpen && isTx n, segOpen := e.segOpen && isTx n }

/-- The port without the FIFO of stream n. -/
def PortEntry.emptied (q : PortEntry) (n : Fin 8) : PortEntry :=
  if isTx n then { q with txFifo := [] } else { q with rxFifo := [], admitted := false }

/-- SEGMENT_END of an open segment, closed directly. -/
def StreamEntry.segmentCut (e : StreamEntry) (n : Fin 8) (v : Ring) (tag : Tag) (u : EventUnit) : EventUnit :=
  if !isTx n && e.segOpen then raisedBy e.active Enables.segment u
    ⟨.segmentEnd, BitVec.ofNat 8 n.val, word v.producer, v.lap.getD 0, word e.segWords, tag⟩
  else u

/-- The events of a cut: SEGMENT_END of an open segment, then STREAM_ENDED. -/
def State.cutEvents (s : State) (why : EndReason) (u : EventUnit) (n : Fin 8) : EventUnit :=
  raisedBy (s.stream n).active Enables.lifecycle ((s.stream n).segmentCut n (s.ring (.stream n)) s.time.counter u)
    (((s.stream n).cut n (s.thrown n)).endEvent n why (s.channels (portOf n)) s.time.counter)

theorem closeOpenSegment_eq (s : State) (p : Fin 4) :
    s.closeOpenSegment p = { s.setStream (rxOf p) { s.stream (rxOf p) with segOpen := false } with
      events := (s.stream (rxOf p)).segmentCut (rxOf p) (s.ring (.stream (rxOf p))) s.time.counter s.events } := by
  simp only [State.closeOpenSegment, StreamEntry.segmentCut, isTx_rxOf, Bool.not_false, Bool.true_and]
  split
  · simp only [State.closeSegment, raiseStreamAt_raisedBy]
    rfl
  · next h =>
    have hclosed : { s.stream (rxOf p) with segOpen := false } = s.stream (rxOf p) := by
      rw [← Bool.eq_false_iff.2 h]
    rw [hclosed, setStream_self]

theorem cutRun_eq (s : State) (n : Fin 8) (why : EndReason) :
    s.cutRun n why = { (s.setStream n ((s.stream n).cut n (s.thrown n))).setPort (portOf n) ((s.port (portOf n)).emptied n) with
      arb := { s.arb with use := s.arb.use.afterRun n }
      events := s.cutEvents why s.events n } := by
  cases htx : isTx n with
  | true =>
    simp only [State.cutRun, htx, if_true, State.throwOutTx, txOf_portOf htx, endRun_raisedBy, setPort_stream, setStream_stream_same]
    simp [State.cutEvents, StreamEntry.segmentCut, State.thrown, StreamEntry.cut, StreamEntry.ended, PortEntry.emptied, htx,
      State.setStream, State.setPort, State.channels, State.port, StreamEntry.endEvent, StreamEntry.wordsMoved]
  | false =>
    simp only [State.cutRun, htx, Bool.false_eq_true, if_false, State.throwOutRx, closeOpenSegment_eq, rxOf_portOf htx, endRun_raisedBy,
      setPort_stream, setStream_stream_same]
    simp [State.cutEvents, StreamEntry.segmentCut, State.thrown, StreamEntry.cut, StreamEntry.ended, PortEntry.emptied, htx,
      State.setStream, State.setPort, State.channels, State.port, State.stream, StreamEntry.endEvent, StreamEntry.wordsMoved, State.ring]

theorem cutEvents_of_active {n : Fin 8} {d : StreamDef} (hd : (s.stream n).active = some d) (why : EndReason) (u : EventUnit) :
    s.cutEvents why u n = raisedIf d.enables.lifecycle
      (raisedIf (d.enables.segment && (!isTx n && (s.stream n).segOpen)) u ⟨.segmentEnd, BitVec.ofNat 8 n.val,
        BitVec.ofNat 16 (s.ring (.stream n)).producer, (s.ring (.stream n)).lap.getD 0, BitVec.ofNat 16 (s.stream n).segWords,
        s.time.counter⟩)
      ⟨.streamEnded, BitVec.ofNat 8 n.val, word why.number,
        wholeFrames (if isTx n then (s.stream n).sent else (s.stream n).deposited) (s.channels (portOf n)),
        BitVec.ofNat 16 (min 65535 ((s.stream n).discarded + s.thrown n)), s.time.counter⟩ := by
  have hsegment : ∀ (a b : Bool) (v : EventUnit) (e : Event), (if a then raisedIf b v e else v) = raisedIf (b && a) v e :=
    fun a b v e => by cases a <;> cases b <;> rfl
  simp only [State.cutEvents, StreamEntry.segmentCut, hd, raisedBy, hsegment]
  rfl

/-- The burst of an engine after the run of its stream: its words belong to no run. -/
theorem burstOutlivesRun_afterRun (u : PortUse) (n : Fin 8) : BurstOutlivesRun u (u.afterRun n) n := by
  refine ⟨?_, ?_, fun hfetch hdeposit => afterRun_of_other (fun b hb => absurd hb (hfetch b)) fun b hb => absurd hb (hdeposit b)⟩
  · rintro b rfl
    simp only [PortUse.afterRun]
    split
    · next h => simp [h]
    · next h => simp [h]
  · rintro b rfl
    simp only [PortUse.afterRun]
    split
    · next h => simp [h]
    · next h => simp [h]

/-! ### The end of every run (R80, R127) -/

/-- Stream n and what its end reads are the same in both states. -/
structure SameRun (s t : State) (n : Fin 8) : Prop where
  stream : t.stream n = s.stream n
  thrown : t.thrown n = s.thrown n
  rings : t.rings = s.rings
  channels : t.channels (portOf n) = s.channels (portOf n)
  time : t.time = s.time

theorem SameRun.refl (s : State) (n : Fin 8) : SameRun s s n := ⟨rfl, rfl, rfl, rfl, rfl⟩

theorem SameRun.trans {t u : State} {n : Fin 8} (h : SameRun s t n) (h' : SameRun t u n) : SameRun s u n :=
  ⟨h'.stream.trans h.stream, h'.thrown.trans h.thrown, h'.rings.trans h.rings, h'.channels.trans h.channels, h'.time.trans h.time⟩

theorem SameRun.cutEvents {t : State} {n : Fin 8} (h : SameRun s t n) (why : EndReason) (u : EventUnit) :
    t.cutEvents why u n = s.cutEvents why u n := by
  simp only [State.cutEvents, h.stream, h.thrown, h.channels, h.time, ring_of_rings h.rings]

theorem emptied_thrown_other {q : PortEntry} {m n : Fin 8} (hp : portOf n = portOf m) (hne : n ≠ m) :
    (if isTx n then (q.emptied m).txFifo.length else sampleCount (q.emptied m).rxFifo) =
      if isTx n then q.txFifo.length else sampleCount q.rxFifo := by
  have hside : isTx n ≠ isTx m := fun h => hne (by
    cases hn : isTx n with
    | true => rw [← txOf_portOf hn, hp, txOf_portOf (h ▸ hn)]
    | false => rw [← rxOf_portOf hn, hp, rxOf_portOf (h ▸ hn)])
  cases hn : isTx n <;> cases hm : isTx m <;> simp_all [PortEntry.emptied]

theorem emptied_active (q : PortEntry) (m : Fin 8) : (q.emptied m).active = q.active := by
  simp only [PortEntry.emptied]
  split <;> rfl

/-- The end of one run leaves another stream what its own end reads. -/
theorem sameRun_cutRun {m n : Fin 8} (hne : n ≠ m) (s : State) (why : EndReason) : SameRun s (s.cutRun m why) n := by
  rw [cutRun_eq]
  refine ⟨setStream_stream_other _ _ _ _ hne, ?_, rfl, ?_, rfl⟩
  all_goals by_cases hp : portOf n = portOf m
  · simp only [State.thrown, hp]
    refine Eq.trans ?_ (emptied_thrown_other hp hne)
    exact congrArg (fun q : PortEntry => if isTx n then q.txFifo.length else sampleCount q.rxFifo) (setPort_port_same ..)
  · exact congrArg (fun q : PortEntry => if isTx n then q.txFifo.length else sampleCount q.rxFifo) (setPort_port_other _ _ _ _ hp)
  · rw [hp]
    exact channels_setPort (s.setStream m _) (emptied_active ..)
  · exact congrArg (fun q : PortEntry => match q.active with
      | some d => d.channels
      | none => 1) (setPort_port_other _ _ _ _ hp)

theorem sameRun_abortStream {m n : Fin 8} (hne : n ≠ m) (s : State) (why : EndReason) : SameRun s (s.abortStream m why) n := by
  simp only [State.abortStream]
  split
  · exact sameRun_cutRun hne s why
  · exact .refl s n

/-- The events of the end of stream n, if it is in a run. -/
def State.abortEvents (s : State) (why : EndReason) (u : EventUnit) (n : Fin 8) : EventUnit :=
  if (s.stream n).state.inRun then s.cutEvents why u n else u

/-- The use of the memory port after the end of stream n, if it is in a run. -/
def State.abortUse (s : State) (u : PortUse) (n : Fin 8) : PortUse := if (s.stream n).state.inRun then u.afterRun n else u

theorem abortStream_events (s : State) (n : Fin 8) (why : EndReason) :
    (s.abortStream n why).events = s.abortEvents why s.events n := by
  simp only [State.abortStream, State.abortEvents]
  split
  · rw [cutRun_eq]
  · rfl

theorem abortStream_use (s : State) (n : Fin 8) (why : EndReason) : (s.abortStream n why).arb.use = s.abortUse s.arb.use n := by
  simp only [State.abortStream, State.abortUse]
  split
  · rw [cutRun_eq]
  · rfl

/-- Ended one after the other, the streams of a list without repetition each end as they stood before. -/
theorem foldl_abortStream {l : List (Fin 8)} (hnodup : l.Nodup) (why : EndReason) (t : State) (hsame : ∀ n ∈ l, SameRun s t n) :
    (l.foldl (fun s n => s.abortStream n why) t).events = l.foldl (s.abortEvents why) t.events ∧
    (l.foldl (fun s n => s.abortStream n why) t).arb.use = l.foldl s.abortUse t.arb.use := by
  induction l generalizing t with
  | nil => exact ⟨rfl, rfl⟩
  | cons n l ih =>
    obtain ⟨hn, hnodup⟩ := List.nodup_cons.1 hnodup
    have hfirst := hsame n List.mem_cons_self
    obtain ⟨hevents, huse⟩ := ih hnodup (t.abortStream n why) fun m hm =>
      (hsame m (List.mem_cons_of_mem _ hm)).trans (sameRun_abortStream (fun h : m = n => hn (h ▸ hm)) t why)
    simp only [List.foldl_cons]
    rw [hevents, huse, abortStream_events, abortStream_use, State.abortEvents, State.abortEvents, State.abortUse, State.abortUse,
      hfirst.stream, hfirst.cutEvents]
    exact ⟨rfl, rfl⟩

/-- The end of runs changes entries, ports, events and the standing of a burst at most. -/
def RunsEnded (s t : State) : Prop :=
  t = { s with streams := t.streams, ports := t.ports, events := t.events, arb := { s.arb with use := t.arb.use } }

theorem runsEnded_abortStream (s : State) (n : Fin 8) (why : EndReason) : RunsEnded s (s.abortStream n why) := by
  simp only [RunsEnded, State.abortStream]
  split
  · rw [cutRun_eq]
    rfl
  · rfl

theorem RunsEnded.trans {t u : State} (h : RunsEnded s t) (h' : RunsEnded t u) : RunsEnded s u := by
  unfold RunsEnded at h h'
  refine h'.trans ?_
  rw [h]

theorem runsEnded_endStreams (s : State) : RunsEnded s s.endStreams :=
  foldl_rel (R := RunsEnded) (fun _ => rfl) (fun _ _ _ => .trans) (fun s n => runsEnded_abortStream s n .reset) allStreams s

/-! ### Claims on rings that are gone (R35) -/

/-- The phase of the Path Unit once the ring of stream n is recreated or removed. -/
def PathPhase.unclaimed (ph : PathPhase) (n : Fin 8) : PathPhase :=
  match ph with
  | .forwarded a e => if e.onStream n then .forwarded a .none else .forwarded a e
  | ph => ph

/-- The use of the memory port once the ring of stream n is recreated or removed. -/
def PortUse.unclaimed (u : PortUse) (n : Fin 8) : PortUse :=
  match u with
  | .fetch b => if txOf b.port = n then .fetch { b with ringStands := false } else .fetch b
  | .deposit b => if rxOf b.port = n then .deposit { b with ringStands := false } else .deposit b
  | u => u

theorem dropClaims_eq (s : State) (n : Fin 8) : s.dropClaims n =
    { s with path := { s.path with phase := s.path.phase.unclaimed n }, arb := { s.arb with use := s.arb.use.unclaimed n } } := rfl

theorem foldl_dropClaims (l : List (Fin 8)) (s : State) : l.foldl State.dropClaims s =
    { s with path := { s.path with phase := l.foldl PathPhase.unclaimed s.path.phase }
             arb := { s.arb with use := l.foldl PortUse.unclaimed s.arb.use } } := by
  induction l generalizing s with
  | nil => rfl
  | cons n l ih => exact ih (s.dropClaims n)

theorem onStream_iff {e : Effect} {n : Fin 8} : e.onStream n = true ↔ ActsOn e n := by
  cases e <;> simp [Effect.onStream, ActsOn]

theorem foldl_unclaimed_of_free {ph : PathPhase} (h : ∀ a e, ph ≠ .forwarded a e) (l : List (Fin 8)) :
    l.foldl PathPhase.unclaimed ph = ph := by
  induction l with
  | nil => rfl
  | cons n l ih =>
    have hsame : ph.unclaimed n = ph := by
      cases ph with
      | forwarded a e => exact absurd rfl (h a e)
      | _ => rfl
    rw [List.foldl_cons, hsame, ih]

theorem foldl_unclaimed_forwarded (a : Access) (e : Effect) (l : List (Fin 8)) :
    l.foldl PathPhase.unclaimed (.forwarded a e) = if l.any e.onStream then .forwarded a .none else .forwarded a e := by
  induction l generalizing e with
  | nil => rfl
  | cons n l ih =>
    rw [List.foldl_cons, PathPhase.unclaimed]
    by_cases h : e.onStream n = true
    · have hnone : ∀ x, Effect.none.onStream x = false := fun _ => rfl
      rw [if_pos h, ih]
      simp [h, hnone]
    · rw [if_neg h, ih]
      simp [Bool.eq_false_iff.2 h]

theorem foldl_unclaimed_fetch (b : FetchBurst) (l : List (Fin 8)) : l.foldl PortUse.unclaimed (.fetch b) =
    .fetch { b with ringStands := b.ringStands && !decide (txOf b.port ∈ l) } := by
  induction l generalizing b with
  | nil => simp
  | cons n l ih =>
    rw [List.foldl_cons, PortUse.unclaimed]
    by_cases h : txOf b.port = n
    · rw [if_pos h, ih]
      simp [h]
    · rw [if_neg h, ih]
      simp [h]

theorem foldl_unclaimed_deposit (b : DepositBurst) (l : List (Fin 8)) : l.foldl PortUse.unclaimed (.deposit b) =
    .deposit { b with ringStands := b.ringStands && !decide (rxOf b.port ∈ l) } := by
  induction l generalizing b with
  | nil => simp
  | cons n l ih =>
    rw [List.foldl_cons, PortUse.unclaimed]
    by_cases h : rxOf b.port = n
    · rw [if_pos h, ih]
      simp [h]
    · rw [if_neg h, ih]
      simp [h]

theorem foldl_unclaimed_other {u : PortUse} (hfetch : ∀ b, u ≠ .fetch b) (hdeposit : ∀ b, u ≠ .deposit b) (l : List (Fin 8)) :
    l.foldl PortUse.unclaimed u = u := by
  induction l with
  | nil => rfl
  | cons n l ih =>
    have hsame : u.unclaimed n = u := by
      cases u with
      | fetch b => exact absurd rfl (hfetch b)
      | deposit b => exact absurd rfl (hdeposit b)
      | _ => rfl
    rw [List.foldl_cons, hsame, ih]

theorem foldl_abortUse_fetch (b : FetchBurst) (l : List (Fin 8)) : l.foldl s.abortUse (.fetch b) =
    .fetch { b with runStands := b.runStands && !(decide (txOf b.port ∈ l) && (s.stream (txOf b.port)).state.inRun) } := by
  induction l generalizing b with
  | nil => simp
  | cons n l ih =>
    rw [List.foldl_cons, State.abortUse, PortUse.afterRun]
    by_cases h : txOf b.port = n
    · subst h
      cases hrun : (s.stream (txOf b.port)).state.inRun <;> simp [hrun, ih]
    · simp only [if_neg h, ite_self, ih]
      simp [h]

theorem foldl_abortUse_deposit (b : DepositBurst) (l : List (Fin 8)) : l.foldl s.abortUse (.deposit b) =
    .deposit { b with runStands := b.runStands && !(decide (rxOf b.port ∈ l) && (s.stream (rxOf b.port)).state.inRun) } := by
  induction l generalizing b with
  | nil => simp
  | cons n l ih =>
    rw [List.foldl_cons, State.abortUse, PortUse.afterRun]
    by_cases h : rxOf b.port = n
    · subst h
      cases hrun : (s.stream (rxOf b.port)).state.inRun <;> simp [hrun, ih]
    · simp only [if_neg h, ite_self, ih]
      simp [h]

theorem foldl_abortUse_other {u : PortUse} (hfetch : ∀ b, u ≠ .fetch b) (hdeposit : ∀ b, u ≠ .deposit b) (l : List (Fin 8)) :
    l.foldl s.abortUse u = u := by
  induction l with
  | nil => rfl
  | cons n l ih =>
    rw [List.foldl_cons, State.abortUse, afterRun_of_other (fun b hb => absurd hb (hfetch b)) (fun b hb => absurd hb (hdeposit b)),
      ite_self, ih]

/-! ### RESET PART (R186) -/

theorem removeDefinitions_eq (s : State) : s.removeDefinitions =
    { s with
      path := { s.path with phase := allStreams.foldl PathPhase.unclaimed s.path.phase }
      arb := { s.arb with use := allStreams.foldl PortUse.unclaimed s.arb.use }
      streams := State.reset.streams, rings := { s.rings with stream := State.reset.rings.stream }, ports := State.reset.ports
      detectors := State.reset.detectors, watches := State.reset.watches, cmd := { s.cmd with staged := Staged.none } } := by
  rw [State.removeDefinitions, foldl_dropClaims]

/-- The phase without a held access (R14, R47). -/
def PathPhase.passed (ph : PathPhase) : PathPhase :=
  match ph with
  | .held h => .forwarded h.access .none
  | ph => ph

theorem passed_of_free {ph : PathPhase} (h : ∀ x, ph ≠ .held x) : ph.passed = ph := by
  cases ph with
  | held x => exact absurd rfl (h x)
  | _ => rfl

theorem setPhase_self (s : State) : s.setPhase s.path.phase = s := rfl

theorem passThrough_eq (s : State) : s.passThrough = s.setPhase s.path.phase.passed := by
  simp only [State.passThrough]
  split
  · next h => rw [h]; rfl
  · next h => rw [passed_of_free h, setPhase_self]

theorem inRun_eq (x : StreamState) : StreamState.inRun x = inRun x := by cases x <;> rfl

theorem endStreams_leaves (s : State) : s.endStreams.events = allStreams.foldl (s.abortEvents .reset) s.events ∧
    s.endStreams.arb.use = allStreams.foldl s.abortUse s.arb.use := by
  have hnodup : allStreams.Nodup := by decide
  rw [State.endStreams]
  exact foldl_abortStream hnodup .reset s fun n _ => .refl s n

/-- RESET PART ends every run, removes every definition, and passes a held access through (R186). -/
theorem softReset_eq (s : State) : s.softReset = { s with
    path := { s.path with phase := (allStreams.foldl PathPhase.unclaimed s.path.phase).passed }
    arb := { s.arb with use := allStreams.foldl PortUse.unclaimed (allStreams.foldl s.abortUse s.arb.use) }
    rings := { s.rings with stream := State.reset.rings.stream }, streams := State.reset.streams, ports := State.reset.ports
    detectors := State.reset.detectors, watches := State.reset.watches, cmd := { s.cmd with staged := Staged.none }
    events := allStreams.foldl (s.abortEvents .reset) s.events } := by
  have hended := runsEnded_endStreams s
  obtain ⟨hevents, huse⟩ := endStreams_leaves s
  rw [State.softReset, passThrough_eq, removeDefinitions_eq]
  generalize s.endStreams = e at hended hevents huse
  unfold RunsEnded at hended
  rw [hevents, huse] at hended
  rw [hended]
  rfl

end

end Sys2Proof.Machine

namespace Sys2Proof.Proofs

open Sys2Proof Sys2Proof.Machine Sys2Proof.Claims

/-- Settles O50: nothing in IDLE, else the run is cut. -/
theorem abortEndsTheRunAtOnce : Obligations.AbortEndsTheRunAtOnce := by
  intro s r n d hx hn hd
  have heffect : ∀ t, (s.stream n).state ≠ .absent → s.abortStream n .aborted = t →
      exec .abort s = .next (answered t r .done 0 none) := fun t hpresent ht =>
    execute_answers hx rfl (by rw [abortCommand, withStream_of_number hn, withPresent_of_present hpresent, ht]; rfl)
  refine ⟨fun hidle => heffect s (by rw [hidle]; nofun) (by rw [State.abortStream, hidle]; rfl), fun hstate => ?_⟩
  have hrun : (s.stream n).state.inRun = true ∧ (s.stream n).state ≠ .absent := by
    obtain h | h | h | h := hstate <;> rw [h] <;> exact ⟨rfl, nofun⟩
  refine ⟨_, heffect _ hrun.2 ((if_pos hrun.1).trans (cutRun_eq ..)), rfl, burstOutlivesRun_afterRun .., ?_,
    fun m hm => setStream_stream_other _ _ _ _ hm, fun q hq => setPort_port_other _ _ _ _ hq, fun htx => ?_, fun hrx => ?_, ?_⟩
  · refine (setStream_stream_same ..).trans ?_
    simp only [StreamEntry.cut, State.thrown, sampleCount, List.countP_eq_length_filter]
  · exact (setPort_port_same ..).trans (if_pos htx)
  · exact (setPort_port_same ..).trans (if_neg (Bool.eq_false_iff.1 hrx))
  · refine (cutEvents_of_active hd .aborted s.events).trans ?_
    simp only [State.thrown, sampleCount, List.countP_eq_length_filter]
    rfl

/-- Settles O54: the counts of the faults a stream can have, and the counters of a port. -/
theorem queryFaultsAndQueryPortReport : Obligations.QueryFaultsAndQueryPortReport := by
  refine ⟨numberChecked_of_withStream rfl rfl, numberChecked_of_withObject rfl rfl, fun s r n hx hn => ?_, fun s r p hx hp => ?_⟩
  · have hquery : queryFaults r s = (if bit (r.p 0) 8 then s.setStream n (s.stream n).clearCounts else s,
        CommandResult.okWith ((s.stream n).faultResponse n)) := by
      rw [queryFaults, withStream_of_number hn]
    have hresponse : (s.stream n).faultResponse n = #v[(s.stream n).reported n .underrun, (s.stream n).reported n .overrun,
        (s.stream n).reported n .frame, (s.stream n).reported n .refused, (s.stream n).reported n .empty,
        (s.stream n).reported n .order] := rfl
    simp only [StreamEntry.reported, applies_eq_canHave] at hresponse
    refine ⟨fun hclear => execute_answers hx rfl ?_, fun hclear => execute_answers hx rfl ?_⟩
    · rw [hquery, hresponse, bit, hclear]
      rfl
    · rw [hquery, hresponse, bit, hclear]
      rfl
  · refine execute_answers hx rfl ?_
    rw [queryPort, withObject_of_number hp]
    simp only [State.portResponse, portSummary]
    cases (s.port p).active <;> rfl

/-- Settles O56: every run ends, the definitions go, and what was judged against a ring passes through. -/
theorem resetPartRemovesTheDefinitions : Obligations.ResetPartRemovesTheDefinitions := by
  intro s r hx
  have hexec : exec .resetPart s = .next (answered s.softReset r .done 0 none) :=
    execute_answers (f := fun _ s => doneWith s.softReset) (t := s.softReset) hx rfl rfl
  rw [softReset_eq] at hexec
  intro ended
  refine ⟨_, hexec, ?_, rfl, rfl, fun n => rfl, fun b hb => ?_, fun b hb => ?_, fun hfetch hdeposit => ?_, fun h hh => ?_,
    fun a e n he hacts => ?_, fun a e he hacts => ?_, fun hheld hforwarded => ?_⟩
  · have hevents : s.abortEvents .reset = ended := by
      funext u n
      cases hd : (s.stream n).active with
      | none => simp only [State.abortEvents, State.cutEvents, StreamEntry.segmentCut, hd, raisedBy, ite_self, ended]
      | some d =>
        simp only [State.abortEvents, cutEvents_of_active hd, hd, inRun_eq, ended, Bool.and_assoc, State.thrown, sampleCount,
          List.countP_eq_length_filter]
        rfl
    rw [hevents]
    rfl
  · rw [hb, foldl_abortUse_fetch, foldl_unclaimed_fetch]
    simp [mem_allStreams, inRun_eq]
  · rw [hb, foldl_abortUse_deposit, foldl_unclaimed_deposit]
    simp [mem_allStreams, inRun_eq]
  · rw [foldl_abortUse_other hfetch hdeposit, foldl_unclaimed_other hfetch hdeposit]
  · rw [hh, foldl_unclaimed_of_free (by nofun)]
    rfl
  · rw [he, foldl_unclaimed_forwarded, if_pos (List.any_eq_true.2 ⟨n, mem_allStreams n, onStream_iff.2 hacts⟩)]
    rfl
  · rw [he, foldl_unclaimed_forwarded, if_neg fun h => ?_]
    · rfl
    · obtain ⟨n, -, hn⟩ := List.any_eq_true.1 h
      exact hacts n (onStream_iff.1 hn)
  · rw [foldl_unclaimed_of_free hforwarded, passed_of_free hheld]

end Sys2Proof.Proofs

/-! PROOF. STOP: what it does in each state of a stream, and with the segment that is open. -/

namespace Sys2Proof.Machine

open Sys2Proof Sys2Proof.Claims

section

variable {s : State}

/-- STOP closes the gate of a receive stream. -/
def State.closing (s : State) (p : Fin 4) : Bool := s.gating p && (s.stream (rxOf p)).gateOpen

/-- The RX FIFO with the END mark of a gate that closes (R121). -/
def State.marked (s : State) (p : Fin 4) : List RxEntry :=
  (s.port p).rxFifo ++ if s.closing p then [.mark .segEnd s.time.counter] else []

theorem marked_of_closing {p : Fin 4} (h : s.closing p = true) :
    s.marked p = (s.port p).rxFifo ++ [.mark .segEnd s.time.counter] := by
  rw [State.marked, if_pos h]

theorem marked_of_not_closing {p : Fin 4} (h : s.closing p = false) : s.marked p = (s.port p).rxFifo := by
  rw [State.marked, h]
  exact List.append_nil _

theorem closeGate_eq (s : State) (p : Fin 4) : s.closeGate p =
    (s.setStream (rxOf p) { s.stream (rxOf p) with gateOpen := (s.stream (rxOf p)).gateOpen && !s.closing p }).setPort p
      { s.port p with rxFifo := s.marked p } := by
  cases h : s.closing p with
  | true =>
    have hgate : s.closeGate p = s.endMark p := if_pos h
    rw [hgate, State.marked, h, Bool.not_true, Bool.and_false]
    rfl
  | false =>
    have hgate : s.closeGate p = s := if_neg (Bool.eq_false_iff.1 h)
    simp only [hgate, State.marked, h, Bool.not_false, Bool.and_true, Bool.false_eq_true, if_false, List.append_nil]
    exact ((congrArg (fun t => State.setPort t p (s.port p)) (setStream_self s (rxOf p))).trans (setPort_self s p)).symm

/-- What the marks leave when STOP closes the gate: they wait for a deposit burst of the stream (R69). -/
def State.stopMarks (s : State) (p : Fin 4) (d : StreamDef) : MarkWork :=
  if depositUnderWay s p then ⟨s.marked p, (s.stream (rxOf p)).segOpen, (s.stream (rxOf p)).segWords, s.events⟩
  else marksProcessed d.enables.segment (rxOf p) (s.ring (.stream (rxOf p))) (s.marked p) (s.stream (rxOf p)).segOpen
    (s.stream (rxOf p)).segWords s.events

/-- The entry of a receive stream STOPPING by STOP, its marks done. -/
def State.stoppedEntry (s : State) (p : Fin 4) (d : StreamDef) : StreamEntry :=
  { s.stream (rxOf p) with
    state := .stopping, stopping := some .stopped, starvation := none
    gateOpen := (s.stream (rxOf p)).gateOpen && !s.closing p
    segOpen := (s.stopMarks p d).segOpen, segWords := (s.stopMarks p d).segWords }

/-- A receive stream STOPPING by STOP, its marks done. -/
def State.stoppedRx (s : State) (p : Fin 4) (d : StreamDef) : State :=
  { (s.setStream (rxOf p) (s.stoppedEntry p d)).setPort p { s.port p with rxFifo := (s.stopMarks p d).fifo } with
    events := (s.stopMarks p d).events }

/-- The entry of a receive stream STOPPING by STOP, its marks still to be done. -/
def State.gateStopped (s : State) (p : Fin 4) : StreamEntry :=
  { (s.stream (rxOf p)).toStopping with gateOpen := (s.stream (rxOf p)).gateOpen && !s.closing p }

theorem closeGate_toStopping (s : State) (p : Fin 4) : (s.setStream (rxOf p) (s.stream (rxOf p)).toStopping).closeGate p =
    (s.setStream (rxOf p) (s.gateStopped p)).setPort p { s.port p with rxFifo := s.marked p } := by
  have hclosing : (s.setStream (rxOf p) (s.stream (rxOf p)).toStopping).closing p = s.closing p := by
    simp only [State.closing, setStream_gating, setStream_stream_same]
    rfl
  have hmarked : (s.setStream (rxOf p) (s.stream (rxOf p)).toStopping).marked p = s.marked p := by
    simp only [State.marked, hclosing, setStream_port, setStream_time]
  rw [closeGate_eq, hclosing, hmarked, setStream_stream_same, setStream_setStream]
  rfl

theorem stopRx_marks {p : Fin 4} {d : StreamDef} (hd : (s.stream (rxOf p)).active = some d) :
    ((s.setStream (rxOf p) (s.stream (rxOf p)).toStopping).closeGate p).processMarks p = s.stoppedRx p d := by
  rw [closeGate_toStopping]
  have hentry : ((s.setStream (rxOf p) (s.gateStopped p)).setPort p { s.port p with rxFifo := s.marked p }).stream (rxOf p) =
      s.gateStopped p := setStream_stream_same ..
  have hport : ((s.setStream (rxOf p) (s.gateStopped p)).setPort p { s.port p with rxFifo := s.marked p }).port p =
      { s.port p with rxFifo := s.marked p } := setPort_port_same ..
  rw [processMarks_eq _ p d (by rw [hentry]; exact hd) (.inr (by rw [hentry]; rfl)), withMarkWork, hentry, hport]
  simp only [State.stoppedRx, State.stoppedEntry, State.stopMarks]
  change (if depositUnderWay s p then _ else _) = _
  cases h : depositUnderWay s p with
  | true => rfl
  | false =>
    simp only [Bool.false_eq_true, if_false, State.setStream, State.setPort, Vector.set_set]
    rfl

theorem stoppedRx_entry (s : State) (p : Fin 4) (d : StreamDef) : (s.stoppedRx p d).stream (rxOf p) = s.stoppedEntry p d :=
  setStream_stream_same ..

theorem stoppedRx_port (s : State) (p : Fin 4) (d : StreamDef) :
    (s.stoppedRx p d).port p = { s.port p with rxFifo := (s.stopMarks p d).fifo } := setPort_port_same ..

theorem stoppedRx_drained_iff {p : Fin 4} {d : StreamDef} :
    (s.stoppedRx p d).drained p = true ↔ (s.stopMarks p d).fifo = [] ∧ depositUnderWay s p = false := by
  have hbusy : (s.stoppedRx p d).depositing p = depositUnderWay s p := rfl
  rw [State.drained, stoppedRx_port, hbusy, Bool.and_eq_true, List.isEmpty_iff, Bool.not_eq_true']

/-- STOP leaves a receive stream STOPPING while its FIFO is not drained (R58). -/
theorem stopRx_waits {p : Fin 4} {d : StreamDef} (hd : (s.stream (rxOf p)).active = some d)
    (h : (s.stopMarks p d).fifo ≠ [] ∨ depositUnderWay s p = true) : s.stopRx p = s.stoppedRx p d := by
  rw [State.stopRx, stopRx_marks hd, if_neg]
  rw [stoppedRx_drained_iff]
  rintro ⟨hfifo, hbusy⟩
  exact h.elim (fun hne => hne hfifo) fun hb => nomatch hb.symm.trans hbusy

/-- The entry of a receive stream that STOP makes IDLE. -/
def State.idleEntry (s : State) (p : Fin 4) (d : StreamDef) : StreamEntry :=
  { s.stoppedEntry p d with state := .idle, stopping := none }

/-- STOP makes a receive stream whose FIFO is drained IDLE (R58). -/
theorem stopRx_ends {p : Fin 4} {d : StreamDef} (hd : (s.stream (rxOf p)).active = some d)
    (hfifo : (s.stopMarks p d).fifo = []) (hbusy : depositUnderWay s p = false) :
    s.stopRx p = { (s.setStream (rxOf p) (s.idleEntry p d)).setPort p { s.port p with rxFifo := [] } with
      events := raisedIf d.enables.lifecycle (s.stopMarks p d).events ⟨.streamEnded, BitVec.ofNat 8 (rxOf p).val, 2,
        wholeFrames (s.stream (rxOf p)).deposited (s.channels p), BitVec.ofNat 16 (min 65535 (s.stream (rxOf p)).discarded),
        s.time.counter⟩ } := by
  have hdrained := stoppedRx_drained_iff.2 ⟨hfifo, hbusy⟩
  have hchannels : (s.stoppedRx p d).channels p = s.channels p := by
    rw [State.channels, stoppedRx_port]
    rfl
  rw [State.stopRx, stopRx_marks hd, if_pos hdrained, endRun_eq (by rw [stoppedRx_entry]; exact hd), afterRun_of_drained hdrained,
    stoppedRx_entry, portOf_rxOf, hchannels, StreamEntry.wordsMoved, isTx_rxOf]
  simp only [State.stoppedRx, State.setStream, State.setPort, Vector.set_set, hfifo]
  rfl

theorem stopMarks_nil {p : Fin 4} (d : StreamDef) (h : s.marked p = []) :
    s.stopMarks p d = ⟨[], (s.stream (rxOf p)).segOpen, (s.stream (rxOf p)).segWords, s.events⟩ := by
  rw [State.stopMarks, h, ite_eq_left_iff]
  exact fun _ => rfl

/-- Without a mark at its head the FIFO stays. -/
theorem stopMarks_unmarked {p : Fin 4} {x : RxEntry} {f : List RxEntry} (d : StreamDef) (hx : x.isMark = false)
    (h : s.marked p = x :: f) :
    s.stopMarks p d = ⟨x :: f, (s.stream (rxOf p)).segOpen, (s.stream (rxOf p)).segWords, s.events⟩ := by
  rw [State.stopMarks, h, ite_eq_left_iff]
  intro _
  cases x with
  | mark k g => exact nomatch hx
  | _ => rfl

/-! ### STOP in the other states (R56, R57) -/

theorem throwOutTx_endRun {n : Fin 8} {d : StreamDef} (htx : isTx n = true) (hd : (s.stream n).active = some d) (why : EndReason) :
    (s.throwOutTx (portOf n)).endRun n why =
      { (s.setStream n { (s.stream n).ended with discarded := (s.stream n).discarded + (s.port (portOf n)).txFifo.length }).setPort
          (portOf n) { s.port (portOf n) with txFifo := [] } with
        arb := { s.arb with use := s.arb.use.afterRun n }
        events := raisedIf d.enables.lifecycle s.events ⟨.streamEnded, BitVec.ofNat 8 n.val, word why.number,
          wholeFrames (s.stream n).sent (s.channels (portOf n)),
          BitVec.ofNat 16 (min 65535 ((s.stream n).discarded + (s.port (portOf n)).txFifo.length)), s.time.counter⟩ } := by
  have hcut : (s.throwOutTx (portOf n)).endRun n why = s.cutRun n why := by
    simp only [State.cutRun, htx, if_true]
  rw [hcut, cutRun_eq, cutEvents_of_active hd]
  simp only [htx, Bool.not_true, Bool.false_and, Bool.and_false, if_true, State.thrown, StreamEntry.cut, PortEntry.emptied,
    Bool.and_true, StreamEntry.ended]
  rfl

end

end Sys2Proof.Machine

namespace Sys2Proof.Proofs

open Sys2Proof Sys2Proof.Machine Sys2Proof.Claims

/-- Settles O49: by the state of the stream, and for a RUNNING receive stream by what its marks leave of its FIFO. -/
theorem stopActsByTheState : Obligations.StopActsByTheState := by
  intro s r n d hx hn hd
  have heffect : ∀ t, (s.stream n).state ≠ .absent → s.stopStream n = t → exec .stop s = .next (answered t r .done 0 none) :=
    fun t hpresent ht =>
      execute_answers hx rfl (by rw [stopCommand, withStream_of_number hn, withPresent_of_present hpresent, ht]; rfl)
  have hrunrx : (s.stream n).state = .running → isTx n = false → ∀ t, s.stopRx (portOf n) = t →
      exec .stop s = .next (answered t r .done 0 none) := fun hstate hrx t ht =>
    heffect t (by rw [hstate]; nofun) (by simp only [State.stopStream, hstate, hrx, Bool.false_eq_true, if_false, ht])
  refine ⟨fun hstate => ?_, fun hstate => ?_, fun hstate htx => ?_, fun hstate hrx => ?_, fun hstate hrx hempty hfree => ?_,
    fun x f hstate hrx hfifo hmark => ?_⟩
  · obtain h | h := hstate
    · exact heffect s (by rw [h]; nofun) (by simp only [State.stopStream, h])
    · exact heffect s (by rw [h]; nofun) (by simp only [State.stopStream, h])
  · by_cases hcase : (s.stream n).state = .armed ∨ isTx n = false
    · have hstop : s.stopStream n = s.endRun n .stopped := by
        obtain h | h := hstate
        · simp only [State.stopStream, h]
        · simp only [State.stopStream, h, hcase.resolve_left (by rw [h]; nofun), Bool.false_eq_true, if_false]
      refine ⟨_, heffect _ (by obtain h | h := hstate <;> rw [h] <;> nofun) (hstop.trans (endRun_eq hd _)), rfl,
        burstOutlivesRun_afterRun .., fun m hm => setStream_stream_other _ _ _ _ hm, fun _ => ⟨setStream_stream_same .., rfl, rfl⟩,
        fun hpending htx => ?_⟩
      obtain h | h := hcase
      · exact nomatch hpending.symm.trans h
      · exact nomatch htx.symm.trans h
    · have htx : isTx n = true := by simpa using fun h => hcase (.inr h)
      have hpending := hstate.resolve_left fun h => hcase (.inl h)
      have hstop : s.stopStream n = (s.throwOutTx (portOf n)).endRun n .stopped := by
        simp only [State.stopStream, hpending, htx, if_true]
      refine ⟨_, heffect _ (by rw [hpending]; nofun) (hstop.trans (throwOutTx_endRun htx hd _)), rfl,
        burstOutlivesRun_afterRun .., fun m hm => setStream_stream_other _ _ _ _ hm, fun h => absurd h hcase, fun _ _ =>
        ⟨setStream_stream_same .., setPort_port_same .., fun q hq => setPort_port_other _ _ _ _ hq, ?_⟩⟩
      simp only [htx, if_true]
      rfl
  · exact heffect _ (by rw [hstate]; nofun) (by simp only [State.stopStream, hstate, htx, if_true]; rfl)
  · obtain ⟨p, rfl⟩ : ∃ p, n = rxOf p := ⟨portOf n, (rxOf_portOf hrx).symm⟩
    rw [portOf_rxOf] at *
    by_cases hdrained : (s.stopMarks p d).fifo = [] ∧ depositUnderWay s p = false
    · obtain ⟨hfifo, hbusy⟩ := hdrained
      refine ⟨_, hrunrx hstate hrx _ (stopRx_ends hd hfifo hbusy), rfl, fun m hm => setStream_stream_other _ _ _ _ hm,
        fun q hq => setPort_port_other _ _ _ _ hq, ?_, fun _ _ => ⟨setStream_stream_same .., rfl⟩, fun h => ?_⟩
      · exact (setPort_port_same ..).trans (congrArg (fun f => { s.port p with rxFifo := f }) hfifo.symm)
      · exact h.elim (fun hne => absurd hfifo hne) fun hb => nomatch hb.symm.trans hbusy
    · have hwaits : (s.stopMarks p d).fifo ≠ [] ∨ depositUnderWay s p = true := by
        rw [← Bool.not_eq_false]
        exact Decidable.not_and_iff_or_not.1 hdrained
      refine ⟨_, hrunrx hstate hrx _ (stopRx_waits hd hwaits), rfl, fun m hm => setStream_stream_other _ _ _ _ hm,
        fun q hq => setPort_port_other _ _ _ _ hq, setPort_port_same .., fun hfifo hbusy => absurd ⟨hfifo, hbusy⟩ hdrained,
        fun _ => ⟨setStream_stream_same .., rfl⟩⟩
  · obtain ⟨p, rfl⟩ : ∃ p, n = rxOf p := ⟨portOf n, (rxOf_portOf hrx).symm⟩
    rw [portOf_rxOf] at *
    have hbusy : depositUnderWay s p = false := depositing_eq_false_iff.2 hfree
    refine ⟨fun hgate => ?_, fun hgating hopen => ?_⟩
    · have hclosing : s.closing p = false := (Bool.and_eq_false_iff ..).2 hgate
      have hmarks := stopMarks_nil d ((marked_of_not_closing hclosing).trans hempty)
      have hentry : s.idleEntry p d = (s.stream (rxOf p)).ended := by
        simp only [State.idleEntry, State.stoppedEntry, hmarks, hclosing, Bool.not_false, Bool.and_true]
        rfl
      have hport : { s.port p with rxFifo := [] } = s.port p := by rw [← hempty]
      have hset : (s.setStream (rxOf p) (s.stream (rxOf p)).ended).setPort p (s.port p) = _ := setPort_self (s.setStream _ _) p
      rw [hrunrx hstate hrx _ (stopRx_ends hd (congrArg MarkWork.fifo hmarks) hbusy), hentry, hport, hmarks, hrx, hset]
      rfl
    · have hclosing : s.closing p = true := Bool.and_eq_true_iff.2 ⟨hgating, hopen⟩
      have hmarks : s.stopMarks p d = ⟨[], false, (s.stream (rxOf p)).segWords, raisedIf d.enables.segment s.events
          ⟨.segmentEnd, BitVec.ofNat 8 (rxOf p).val, BitVec.ofNat 16 (s.ring (.stream (rxOf p))).producer,
            (s.ring (.stream (rxOf p))).lap.getD 0, BitVec.ofNat 16 (s.stream (rxOf p)).segWords, s.time.counter⟩⟩ := by
        rw [State.stopMarks, hbusy, marked_of_closing hclosing, hempty]
        rfl
      refine ⟨_, hrunrx hstate hrx _ (stopRx_ends hd (congrArg MarkWork.fifo hmarks) hbusy), ?_, ?_, ?_⟩
      · refine (setStream_stream_same ..).trans ?_
        simp only [State.idleEntry, State.stoppedEntry, hmarks, hclosing, Bool.not_true, Bool.and_false]
      · exact congrArg PortEntry.rxFifo (setPort_port_same ..)
      · rw [hmarks]
  · obtain ⟨p, rfl⟩ : ∃ p, n = rxOf p := ⟨portOf n, (rxOf_portOf hrx).symm⟩
    rw [portOf_rxOf] at *
    refine ⟨fun hgate => ?_, fun hgate => ?_⟩
    · have hclosing : s.closing p = true := Bool.and_eq_true_iff.2 hgate
      have hmarks := stopMarks_unmarked d hmark ((marked_of_closing hclosing).trans (congrArg (· ++ _) hfifo))
      rw [hrunrx hstate hrx _ (stopRx_waits hd (.inl (by rw [hmarks]; nofun))), State.stoppedRx, State.stoppedEntry, hmarks, hclosing,
        Bool.not_true, Bool.and_false]
      rfl
    · have hclosing : s.closing p = false := (Bool.and_eq_false_iff ..).2 hgate
      have hmarks := stopMarks_unmarked d hmark ((marked_of_not_closing hclosing).trans hfifo)
      have hport : { s.port p with rxFifo := x :: f } = s.port p := by rw [← hfifo]
      rw [hrunrx hstate hrx _ (stopRx_waits hd (.inl (by rw [hmarks]; nofun))), State.stoppedRx, State.stoppedEntry, hmarks, hclosing,
        Bool.not_false, Bool.and_true, hport]
      exact congrArg (fun t : State => Host.Outcome.next (answered t r .done 0 none)) (setPort_self (s.setStream _ _) p)

end Sys2Proof.Proofs

/-! PROOF. APPLY: what it makes of each named object, and how it judges the held access again (R44 to R46, R152). -/

namespace Sys2Proof.Machine

open Sys2Proof Sys2Proof.Claims

section

variable {s : State}

/-! ### Walks over objects -/

/-- A view that the work at object `a` sets and the work at the others keeps, while `K` holds. -/
theorem foldl_sets {α β : Type} [DecidableEq α] (f : State → α → State) (view : State → β) (K : State → Prop) (a : α) (v : β)
    (hkeep : ∀ s x, K s → K (f s x)) (hset : ∀ s, K s → view (f s a) = v) (hother : ∀ s x, x ≠ a → view (f s x) = view s)
    (l : List α) (s : State) (hs : K s) : view (l.foldl f s) = if a ∈ l then v else view s := by
  induction l generalizing s with
  | nil => rfl
  | cons x l ih =>
    rw [List.foldl_cons, ih _ (hkeep s x hs)]
    by_cases hx : x = a
    · rw [hx, hset s hs, ite_self, if_pos List.mem_cons_self]
    · rw [hother s x hx]
      simp only [List.mem_cons, Ne.symm hx, false_or]

/-- A view that the work at every object keeps. -/
theorem foldl_view {α β : Type} (f : State → α → State) (view : State → β) (h : ∀ s x, view (f s x) = view s) (l : List α)
    (s : State) : view (l.foldl f s) = view s :=
  foldl_rel (R := fun s t => view t = view s) (fun _ => rfl) (fun _ _ _ h h' => h'.trans h) h l s

/-! ### One stream (R44, R52, R85) -/

/-- The stream is set from its staged definition; the held access is not judged again yet. -/
def State.streamReset (s : State) (n : Fin 8) : State :=
  let s1 := (((s.dropClaims n).setStream n (StreamEntry.fresh s.cmd.staged.streams[n.val] (s.idleWord (portOf n)))).setRing
    (.stream n) (Ring.fresh (some 0))).emptyFifo n
  if isTx n then s1 else s1.quietDetector (portOf n)

theorem applyStream_eq (s : State) (n : Fin 8) : s.applyStream n = (s.streamReset n).rejudgeHeld n := rfl

theorem rejudgeHeld_eq (s : State) (n : Fin 8) : s.rejudgeHeld n = s.setPhase (s.rejudgeHeld n).path.phase := by
  obtain h | ⟨ph, h⟩ := rejudgeHeld_cases s n <;> rw [h] <;> rfl

/-- The port without the FIFO of stream n, TAKING again for a transmit stream (R85). -/
def PortEntry.reset (q : PortEntry) (n : Fin 8) : PortEntry :=
  if isTx n then { q with txFifo := [], tx := .taking } else { q with rxFifo := [], admitted := false }

theorem emptyFifo_eq (s : State) (n : Fin 8) : s.emptyFifo n = s.setPort (portOf n) ((s.port (portOf n)).reset n) := by
  simp only [State.emptyFifo, PortEntry.reset]
  split <;> rfl

theorem streamReset_eq (s : State) (n : Fin 8) : s.streamReset n =
    { s with
      path := { s.path with phase := s.path.phase.unclaimed n }
      arb := { s.arb with use := s.arb.use.unclaimed n }
      streams := s.streams.set n.val (StreamEntry.fresh s.cmd.staged.streams[n.val] (s.idleWord (portOf n)))
      rings := s.rings.set (.stream n) (Ring.fresh (some 0))
      ports := s.ports.set (portOf n).val ((s.port (portOf n)).reset n)
      detectors := if isTx n then s.detectors
        else s.detectors.set (portOf n).val (DetectorEntry.fresh (s.detector (portOf n)).active) } := by
  simp only [State.streamReset, emptyFifo_eq, dropClaims_eq]
  split <;> rfl

theorem applyStream_ring (s : State) (n : Fin 8) (x : RingId) :
    (s.applyStream n).ring x = if x = .stream n then Ring.fresh (some 0) else s.ring x := by
  rw [applyStream_eq, rejudgeHeld_eq, streamReset_eq]
  by_cases h : x = .stream n
  · rw [if_pos h, h]
    exact setRing_ring_same s (.stream n) (Ring.fresh (some 0))
  · rw [if_neg h]
    exact setRing_ring_other s (.stream n) x (Ring.fresh (some 0)) h

theorem applyStream_port (s : State) (n : Fin 8) (q : Fin 4) :
    (s.applyStream n).port q = if q = portOf n then (s.port q).reset n else s.port q := by
  rw [applyStream_eq, rejudgeHeld_eq, streamReset_eq]
  by_cases h : q = portOf n
  · rw [if_pos h, h]
    exact setPort_port_same s _ _
  · rw [if_neg h]
    exact setPort_port_other s _ _ _ h

theorem applyStream_detectors (s : State) (n : Fin 8) : (s.applyStream n).detectors =
    if isTx n then s.detectors else s.detectors.set (portOf n).val (DetectorEntry.fresh (s.detector (portOf n)).active) := by
  rw [applyStream_eq, rejudgeHeld_eq, streamReset_eq]
  rfl

theorem applyStream_detector (s : State) (n : Fin 8) (q : Fin 4) :
    (s.applyStream n).detector q = if n = rxOf q then DetectorEntry.fresh (s.detector q).active else s.detector q := by
  rw [State.detector, applyStream_detectors]
  cases htx : isTx n with
  | true =>
    have hne : n ≠ rxOf q := fun h => nomatch htx.symm.trans ((congrArg isTx h).trans (isTx_rxOf q))
    rw [if_neg hne]
    rfl
  | false =>
    by_cases h : q = portOf n
    · subst h
      rw [if_pos (rxOf_portOf htx).symm]
      exact setDetector_detector_same s (portOf n) _
    · have hne : n ≠ rxOf q := fun hn => h (by rw [hn, portOf_rxOf])
      rw [if_neg hne]
      exact setDetector_detector_other s (portOf n) q _ h

theorem applyStream_watches (s : State) (n : Fin 8) : (s.applyStream n).watches = s.watches := by
  rw [applyStream_eq, rejudgeHeld_eq, streamReset_eq]
  rfl

theorem applyStream_cmd (s : State) (n : Fin 8) : (s.applyStream n).cmd = s.cmd := by
  rw [applyStream_eq, rejudgeHeld_eq, streamReset_eq]
  rfl

theorem applyStream_use (s : State) (n : Fin 8) : (s.applyStream n).arb.use = s.arb.use.unclaimed n := by
  rw [applyStream_eq, rejudgeHeld_eq, streamReset_eq]
  rfl

/-! ### The four walks (R152) -/

def State.portsApplied (s : State) (o : ObjectSet) : State := (allPorts.filter o.port).foldl State.applyPort s

def State.streamsApplied (s : State) (o : ObjectSet) : State := (allStreams.filter o.stream).foldl State.applyStream (s.portsApplied o)

def State.detectorsApplied (s : State) (o : ObjectSet) : State :=
  (allPorts.filter o.detector).foldl State.applyDetector (s.streamsApplied o)

theorem applyAll_eq (s : State) (o : ObjectSet) :
    s.applyAll o = (allPorts.filter o.watch).foldl State.applyWatch (s.detectorsApplied o) := rfl

theorem mem_filter_ports {f : Fin 4 → Bool} {p : Fin 4} : p ∈ allPorts.filter f ↔ f p = true := by
  rw [List.mem_filter, and_iff_right (mem_allPorts p)]

theorem mem_filter_streams {f : Fin 8 → Bool} {n : Fin 8} : n ∈ allStreams.filter f ↔ f n = true := by
  rw [List.mem_filter, and_iff_right (mem_allStreams n)]

theorem applyPort_port (s : State) (p q : Fin 4) :
    (s.applyPort p).port q = if q = p then PortEntry.fresh s.cmd.staged.ports[p.val] else s.port q := by
  by_cases h : q = p
  · rw [if_pos h, h]
    exact setPort_port_same s p _
  · rw [if_neg h]
    exact setPort_port_other s p q _ h

theorem applyPort_detector (s : State) (p q : Fin 4) :
    (s.applyPort p).detector q = if q = p then DetectorEntry.fresh (s.detector q).active else s.detector q := by
  by_cases h : q = p
  · rw [if_pos h, h]
    exact setDetector_detector_same s p _
  · rw [if_neg h]
    exact setDetector_detector_other s p q _ h

/-- What the walk over the ports leaves. -/
theorem portsApplied_keeps (s : State) (o : ObjectSet) :
    let t := s.portsApplied o
    t.streams = s.streams ∧ t.rings = s.rings ∧ t.watches = s.watches ∧ t.cmd = s.cmd ∧ t.path = s.path ∧ t.arb = s.arb :=
  have hkeeps : ∀ {β : Type} (view : State → β), (∀ t p, view (t.applyPort p) = view t) → view (s.portsApplied o) = view s :=
    fun view h => foldl_view State.applyPort view h _ s
  ⟨hkeeps State.streams fun _ _ => rfl, hkeeps State.rings fun _ _ => rfl, hkeeps State.watches fun _ _ => rfl,
    hkeeps State.cmd fun _ _ => rfl, hkeeps State.path fun _ _ => rfl, hkeeps State.arb fun _ _ => rfl⟩

theorem portsApplied_port (s : State) (o : ObjectSet) (p : Fin 4) :
    (s.portsApplied o).port p = if o.port p then PortEntry.fresh s.cmd.staged.ports[p.val] else s.port p := by
  refine (foldl_sets State.applyPort (fun t => t.port p) (fun t => t.cmd = s.cmd) p (PortEntry.fresh s.cmd.staged.ports[p.val])
    (fun _ _ h => h) (fun t h => ?_)
    (fun t x hx => ?_) _ s rfl).trans ?_
  · rw [applyPort_port, if_pos rfl, h]
  · rw [applyPort_port, if_neg (Ne.symm hx)]
  · simp only [mem_filter_ports]

theorem portsApplied_detector (s : State) (o : ObjectSet) (p : Fin 4) :
    (s.portsApplied o).detector p = if o.port p then DetectorEntry.fresh (s.detector p).active else s.detector p := by
  refine (foldl_sets State.applyPort (fun t => t.detector p) (fun t => (t.detector p).active = (s.detector p).active) p
    (DetectorEntry.fresh (s.detector p).active)
    (fun t x h => ?_) (fun t h => ?_) (fun t x hx => ?_) _ s rfl).trans ?_
  · rw [applyPort_detector]
    split
    · exact h
    · exact h
  · rw [applyPort_detector, if_pos rfl, h]
  · rw [applyPort_detector, if_neg (Ne.symm hx)]
  · simp only [mem_filter_ports]

/-- What the walk over the streams leaves. -/
theorem streamsApplied_keeps (s : State) (o : ObjectSet) :
    (s.streamsApplied o).watches = s.watches ∧ (s.streamsApplied o).cmd = s.cmd := by
  obtain ⟨-, -, hwatches, hcmd, -, -⟩ := portsApplied_keeps s o
  exact ⟨(foldl_view State.applyStream State.watches applyStream_watches _ _).trans hwatches,
    (foldl_view State.applyStream State.cmd applyStream_cmd _ _).trans hcmd⟩

theorem streamsApplied_port_active (s : State) (o : ObjectSet) (p : Fin 4) :
    ((s.streamsApplied o).port p).active = ((s.portsApplied o).port p).active :=
  foldl_view State.applyStream (fun t => (t.port p).active) (fun t n => applyStream_ports_active t n p) _ _

theorem streamsApplied_stream (s : State) (o : ObjectSet) (n : Fin 8) : (s.streamsApplied o).stream n =
    if o.stream n then StreamEntry.fresh s.cmd.staged.streams[n.val] ((s.portsApplied o).idleWord (portOf n)) else s.stream n := by
  obtain ⟨hstreams, -, -, hcmd, -, -⟩ := portsApplied_keeps s o
  have hidle : ∀ t : State, (t.port (portOf n)).active = ((s.portsApplied o).port (portOf n)).active →
      t.idleWord (portOf n) = (s.portsApplied o).idleWord (portOf n) := fun t h => by rw [State.idleWord, State.idleWord, h]
  refine (foldl_sets State.applyStream (fun t => t.stream n) (fun t => t.cmd = s.cmd ∧
    (t.port (portOf n)).active = ((s.portsApplied o).port (portOf n)).active) n
    (StreamEntry.fresh s.cmd.staged.streams[n.val] ((s.portsApplied o).idleWord (portOf n)))
    (fun t x h => ?_) (fun t h => ?_) (fun t x hx => ?_)
    _ (s.portsApplied o) ⟨hcmd, rfl⟩).trans ?_
  · exact ⟨(applyStream_cmd t x).trans h.1, (applyStream_ports_active t x _).trans h.2⟩
  · rw [applyStream_stream, if_pos rfl, hidle t h.2, h.1]
  · rw [applyStream_stream, if_neg (Ne.symm hx)]
  · simp only [mem_filter_streams, State.stream, hstreams]

theorem streamsApplied_ring (s : State) (o : ObjectSet) (n : Fin 8) :
    (s.streamsApplied o).ring (.stream n) = if o.stream n then Ring.fresh (some 0) else s.ring (.stream n) := by
  obtain ⟨-, hrings, -, -, -, -⟩ := portsApplied_keeps s o
  refine (foldl_sets State.applyStream (fun t => t.ring (.stream n)) (fun _ => True) n (Ring.fresh (some 0))
    (fun _ _ h => h) (fun t _ => ?_)
    (fun t x hx => ?_) _ (s.portsApplied o) trivial).trans ?_
  · rw [applyStream_ring, if_pos rfl]
  · rw [applyStream_ring, if_neg fun h => hx (RingId.stream.inj h).symm]
  · simp only [mem_filter_streams, ring_of_rings hrings]

theorem streamsApplied_ring_control (s : State) (o : ObjectSet) {x : RingId} (hx : ∀ n, x ≠ .stream n) :
    (s.streamsApplied o).ring x = s.ring x := by
  obtain ⟨-, hrings, -, -, -, -⟩ := portsApplied_keeps s o
  refine (foldl_view State.applyStream (fun t => t.ring x) (fun t n => ?_) _ _).trans (ring_of_rings hrings x)
  rw [applyStream_ring, if_neg (hx n)]

theorem applyStream_port_fields (s : State) (n : Fin 8) (p : Fin 4) : (s.applyStream n).port p =
    { s.port p with
      txFifo := if txOf p = n then [] else (s.port p).txFifo, tx := if txOf p = n then .taking else (s.port p).tx
      rxFifo := if rxOf p = n then [] else (s.port p).rxFifo, admitted := (s.port p).admitted && !decide (rxOf p = n) } := by
  rw [applyStream_port]
  by_cases h : p = portOf n
  · subst h
    cases htx : isTx n with
    | true =>
      have hrx : rxOf (portOf n) ≠ n := fun h => nomatch htx.symm.trans ((congrArg isTx h).symm.trans (isTx_rxOf _))
      simp [PortEntry.reset, htx, txOf_portOf htx, hrx]
    | false =>
      have htx' : txOf (portOf n) ≠ n := fun h => nomatch htx.symm.trans ((congrArg isTx h).symm.trans (isTx_txOf _))
      simp [PortEntry.reset, htx, rxOf_portOf htx, htx']
  · have htx : txOf p ≠ n := fun hn => h (by rw [← hn, portOf_txOf])
    have hrx : rxOf p ≠ n := fun hn => h (by rw [← hn, portOf_rxOf])
    simp [h, htx, hrx]

theorem foldl_applyStream_port (l : List (Fin 8)) (s : State) (p : Fin 4) : (l.foldl State.applyStream s).port p =
    { s.port p with
      txFifo := if txOf p ∈ l then [] else (s.port p).txFifo, tx := if txOf p ∈ l then .taking else (s.port p).tx
      rxFifo := if rxOf p ∈ l then [] else (s.port p).rxFifo, admitted := (s.port p).admitted && !decide (rxOf p ∈ l) } := by
  induction l generalizing s with
  | nil => simp
  | cons n l ih =>
    rw [List.foldl_cons, ih, applyStream_port_fields]
    by_cases htx : txOf p = n <;> by_cases hrx : rxOf p = n <;> simp [htx, hrx]

theorem streamsApplied_port (s : State) (o : ObjectSet) (p : Fin 4) : (s.streamsApplied o).port p =
    { (s.portsApplied o).port p with
      txFifo := if o.stream (txOf p) then [] else ((s.portsApplied o).port p).txFifo
      tx := if o.stream (txOf p) then .taking else ((s.portsApplied o).port p).tx
      rxFifo := if o.stream (rxOf p) then [] else ((s.portsApplied o).port p).rxFifo
      admitted := ((s.portsApplied o).port p).admitted && !o.stream (rxOf p) } := by
  refine (foldl_applyStream_port _ _ p).trans ?_
  simp only [mem_filter_streams, Bool.decide_eq_true]

theorem streamsApplied_detector (s : State) (o : ObjectSet) (p : Fin 4) : (s.streamsApplied o).detector p =
    if o.port p || o.stream (rxOf p) then DetectorEntry.fresh (s.detector p).active else s.detector p := by
  have hactive : ((s.portsApplied o).detector p).active = (s.detector p).active := by
    rw [portsApplied_detector]
    split <;> rfl
  refine (foldl_sets State.applyStream (fun t => t.detector p) (fun t => (t.detector p).active = (s.detector p).active) (rxOf p)
    (DetectorEntry.fresh (s.detector p).active)
    (fun t x h => ?_) (fun t h => ?_) (fun t x hx => ?_) _ (s.portsApplied o) hactive).trans ?_
  · exact (applyStream_detectors_active t x p).trans h
  · rw [applyStream_detector, if_pos rfl, h]
  · rw [applyStream_detector, if_neg hx]
  · rw [portsApplied_detector]
    simp only [mem_filter_streams, Bool.or_eq_true]
    cases o.stream (rxOf p) <;> simp

theorem detectorsApplied_detector (s : State) (o : ObjectSet) (p : Fin 4) : (s.detectorsApplied o).detector p =
    if o.detector p then DetectorEntry.fresh s.cmd.staged.detectors[p.val] else (s.streamsApplied o).detector p := by
  refine (foldl_sets State.applyDetector (fun t => t.detector p) (fun t => t.cmd = s.cmd) p
    (DetectorEntry.fresh s.cmd.staged.detectors[p.val]) (fun _ _ h => h) (fun t h => ?_)
    (fun t x hx => ?_) _ (s.streamsApplied o) (streamsApplied_keeps s o).2).trans ?_
  · rw [← h]
    exact setDetector_detector_same t p _
  · exact setDetector_detector_other t x p _ (Ne.symm hx)
  · simp only [mem_filter_ports]

/-- What the walk over the detectors leaves. -/
theorem detectorsApplied_keeps (s : State) (o : ObjectSet) :
    let t := s.detectorsApplied o
    let u := s.streamsApplied o
    t.streams = u.streams ∧ t.rings = u.rings ∧ t.ports = u.ports ∧ t.watches = u.watches ∧ t.cmd = u.cmd ∧ t.path = u.path ∧
      t.arb = u.arb :=
  have hkeeps : ∀ {β : Type} (view : State → β), (∀ t p, view (t.applyDetector p) = view t) →
      view (s.detectorsApplied o) = view (s.streamsApplied o) := fun view h => foldl_view State.applyDetector view h _ _
  ⟨hkeeps State.streams fun _ _ => rfl, hkeeps State.rings fun _ _ => rfl, hkeeps State.ports fun _ _ => rfl,
    hkeeps State.watches fun _ _ => rfl, hkeeps State.cmd fun _ _ => rfl, hkeeps State.path fun _ _ => rfl,
    hkeeps State.arb fun _ _ => rfl⟩

/-- What the walk over the watches leaves. -/
theorem applyAll_keeps (s : State) (o : ObjectSet) :
    let t := s.applyAll o
    let u := s.streamsApplied o
    t.streams = u.streams ∧ t.rings = u.rings ∧ t.ports = u.ports ∧ t.detectors = (s.detectorsApplied o).detectors ∧
      t.path = u.path ∧ t.arb = u.arb := by
  obtain ⟨hstreams, hrings, hports, -, -, hpath, harb⟩ := detectorsApplied_keeps s o
  have hkeeps : ∀ {β : Type} (view : State → β), (∀ t p, view (t.applyWatch p) = view t) →
      view (s.applyAll o) = view (s.detectorsApplied o) := fun view h => foldl_view State.applyWatch view h _ _
  exact ⟨(hkeeps State.streams fun _ _ => rfl).trans hstreams, (hkeeps State.rings fun _ _ => rfl).trans hrings,
    (hkeeps State.ports fun _ _ => rfl).trans hports, hkeeps State.detectors fun _ _ => rfl,
    (hkeeps State.path fun _ _ => rfl).trans hpath, (hkeeps State.arb fun _ _ => rfl).trans harb⟩

theorem applyAll_watch (s : State) (o : ObjectSet) (w : Fin 4) : (s.applyAll o).watch w =
    if o.watch w then WatchEntry.fresh s.cmd.staged.watches[w.val] else s.watch w := by
  obtain ⟨-, -, -, hwatches, hcmd, -, -⟩ := detectorsApplied_keeps s o
  obtain ⟨hwatches', hcmd'⟩ := streamsApplied_keeps s o
  refine (foldl_sets State.applyWatch (fun t => t.watch w) (fun t => t.cmd = s.cmd) w (WatchEntry.fresh s.cmd.staged.watches[w.val])
    (fun _ _ h => h) (fun t h => ?_)
    (fun t x hx => ?_) _ (s.detectorsApplied o) (hcmd.trans hcmd')).trans ?_
  · rw [← h]
    exact setWatch_watch_same t w _
  · exact setWatch_watch_other t x w _ (Ne.symm hx)
  · simp only [mem_filter_ports, State.watch, hwatches, hwatches']

/-! ### What stands against a ring that is set (R35, R45, R46) -/

theorem foldl_applyStream_use (l : List (Fin 8)) (s : State) :
    (l.foldl State.applyStream s).arb.use = l.foldl PortUse.unclaimed s.arb.use := by
  induction l generalizing s with
  | nil => rfl
  | cons n l ih => rw [List.foldl_cons, ih, applyStream_use, List.foldl_cons]

theorem rejudgeHeld_of_other {n : Fin 8} (h : ∀ x, s.path.phase = .held x → x.ring ≠ .stream n) : s.rejudgeHeld n = s := by
  simp only [State.rejudgeHeld]
  split
  · next x hx => rw [if_neg (h x hx)]
  · rfl

theorem streamReset_phase (s : State) (n : Fin 8) : (s.streamReset n).path.phase = s.path.phase.unclaimed n := by
  rw [streamReset_eq]

/-- Without an access held on its ring, the setting of a stream only drops claims. -/
theorem applyStream_phase_of_other {n : Fin 8} (h : ∀ x, s.path.phase = .held x → x.ring ≠ .stream n) :
    (s.applyStream n).path.phase = s.path.phase.unclaimed n := by
  rw [applyStream_eq, rejudgeHeld_of_other, streamReset_phase]
  intro x hx
  rw [streamReset_phase] at hx
  cases hp : s.path.phase with
  | held y =>
    rw [hp] at hx
    cases hx
    exact h _ hp
  | forwarded a e =>
    rw [hp, PathPhase.unclaimed] at hx
    split at hx <;> exact nomatch hx
  | _ => rw [hp] at hx; exact nomatch hx

theorem foldl_applyStream_phase_of_free {l : List (Fin 8)} (h : ∀ x, s.path.phase ≠ .held x) :
    (l.foldl State.applyStream s).path.phase = l.foldl PathPhase.unclaimed s.path.phase := by
  induction l generalizing s with
  | nil => rfl
  | cons n l ih =>
    have hphase := applyStream_phase_of_other (n := n) fun x hx => absurd hx (h x)
    rw [List.foldl_cons, ih, hphase, List.foldl_cons]
    intro x hx
    rw [hphase] at hx
    cases hp : s.path.phase with
    | held y => exact h y hp
    | forwarded a e =>
      rw [hp, PathPhase.unclaimed] at hx
      split at hx <;> exact nomatch hx
    | _ => rw [hp] at hx; exact nomatch hx

/-- The phase is not moved by the setting of a stream of the list. -/
def PathPhase.Settled (ph : PathPhase) (l : List (Fin 8)) : Prop :=
  (∀ x, ph = .held x → ∀ n ∈ l, x.ring ≠ .stream n) ∧ ∀ a e, ph = .forwarded a e → ∀ n ∈ l, e.onStream n = false

theorem foldl_applyStream_phase_of_settled {l : List (Fin 8)} {ph : PathPhase} (hph : s.path.phase = ph) (h : ph.Settled l) :
    (l.foldl State.applyStream s).path.phase = ph := by
  induction l generalizing s with
  | nil => exact hph
  | cons n l ih =>
    obtain ⟨hheld, hforwarded⟩ := h
    refine ih ?_ ⟨fun x hx m hm => hheld x hx m (List.mem_cons_of_mem _ hm), fun a e he m hm =>
      hforwarded a e he m (List.mem_cons_of_mem _ hm)⟩
    rw [applyStream_phase_of_other fun x hx => hheld x (hph.symm.trans hx) n List.mem_cons_self, hph]
    cases ph with
    | forwarded a e => simp only [PathPhase.unclaimed, hforwarded a e rfl n List.mem_cons_self, Bool.false_eq_true, if_false]
    | _ => rfl

/-- The access held on the ring of stream n is judged once, when the walk comes to that stream. -/
theorem foldl_applyStream_phase_of_held {l : List (Fin 8)} (hnodup : l.Nodup) {n : Fin 8} (hn : n ∈ l) {h : HeldAccess}
    {ph : PathPhase} (hheld : s.path.phase = .held h) (hring : h.ring = .stream n)
    (hjudged : ∀ t : State, t.path.phase = .held h → t.cmd = s.cmd → (t.applyStream n).path.phase = ph)
    (hsettled : ∀ m, m ≠ n → ph.Settled [m]) : (l.foldl State.applyStream s).path.phase = ph := by
  induction l generalizing s with
  | nil => exact nomatch hn
  | cons m l ih =>
    obtain ⟨hm, hnodup⟩ := List.nodup_cons.1 hnodup
    rw [List.foldl_cons]
    by_cases hmn : m = n
    · subst hmn
      have hne : ∀ k ∈ l, k ≠ m := fun k hk h => hm (h ▸ hk)
      exact foldl_applyStream_phase_of_settled (hjudged s hheld rfl)
        ⟨fun x hx k hk => (hsettled k (hne k hk)).1 x hx k List.mem_cons_self,
          fun a e he k hk => (hsettled k (hne k hk)).2 a e he k List.mem_cons_self⟩
    · refine ih hnodup ((List.mem_cons.1 hn).resolve_left (Ne.symm hmn)) ?_ fun t ht hcmd =>
        hjudged t ht (hcmd.trans (applyStream_cmd s m))
      refine (applyStream_phase_of_other fun x hx => ?_).trans (by rw [hheld]; rfl)
      cases hheld.symm.trans hx
      rw [hring]
      exact fun h => hmn (RingId.stream.inj h).symm

/-! ### The held access in the new ring (R45, R46) -/

theorem covers_iff {d : StreamDef} {a : Addr} : d.covers a = true ↔ d.base.toNat ≤ a.toNat ∧ a.toNat < d.base.toNat + d.length := by
  rw [StreamDef.covers, Bool.and_eq_true, decide_eq_true_iff, decide_eq_true_iff]

section Held

variable {n : Fin 8} {h : HeldAccess}

theorem streamReset_stream (s : State) (n : Fin 8) :
    (s.streamReset n).stream n = StreamEntry.fresh s.cmd.staged.streams[n.val] (s.idleWord (portOf n)) := by
  rw [streamReset_eq]
  exact setStream_stream_same s n _

theorem streamReset_ring (s : State) (n : Fin 8) : (s.streamReset n).ring (.stream n) = Ring.fresh (some 0) := by
  rw [streamReset_eq]
  exact setRing_ring_same s (.stream n) (Ring.fresh (some 0))

theorem streamReset_held (hheld : s.path.phase = .held h) : (s.streamReset n).path.phase = .held h := by
  rw [streamReset_phase, hheld]
  rfl

theorem applyStream_phase_gone (hheld : s.path.phase = .held h) (hring : h.ring = .stream n)
    (hstaged : s.cmd.staged.streams[n.val] = none) : (s.applyStream n).path.phase = .forwarded h.access .none := by
  rw [applyStream_eq]
  simp only [State.rejudgeHeld, streamReset_held hheld, if_pos hring, streamReset_stream, StreamEntry.fresh, hstaged]
  rfl

theorem applyStream_phase_outside {d : StreamDef} (hheld : s.path.phase = .held h) (hring : h.ring = .stream n)
    (hstaged : s.cmd.staged.streams[n.val] = some d) (hcovers : d.covers h.access.addr = false) :
    (s.applyStream n).path.phase = .forwarded h.access .none := by
  rw [applyStream_eq]
  simp only [State.rejudgeHeld, streamReset_held hheld, if_pos hring, streamReset_stream, StreamEntry.fresh, hstaged, hcovers,
    Bool.false_eq_true, if_false]
  rfl

theorem applyStream_phase_read {d : StreamDef} (hheld : s.path.phase = .held h) (hring : h.ring = .stream n)
    (hstaged : s.cmd.staged.streams[n.val] = some d) (hcovers : d.covers h.access.addr = true) (hkind : h.access.kind = .read) :
    (s.applyStream n).path.phase = .held { h with releasable := false } := by
  rw [applyStream_eq]
  simp only [State.rejudgeHeld, streamReset_held hheld, if_pos hring, streamReset_stream, StreamEntry.fresh, hstaged, hcovers,
    if_true, hkind]
  rfl

theorem applyStream_phase_write {d : StreamDef} {data : Word} {e : Effect} (hheld : s.path.phase = .held h)
    (hring : h.ring = .stream n) (hstaged : s.cmd.staged.streams[n.val] = some d) (hcovers : d.covers h.access.addr = true)
    (hkind : h.access.kind = .write data)
    (hjudge : (s.streamReset n).judge h.access (.stream n) (h.access.addr.toNat - d.base.toNat) 0 = .pass e) :
    (s.applyStream n).path.phase = .forwarded h.access e := by
  rw [applyStream_eq]
  simp only [State.rejudgeHeld, streamReset_held hheld, if_pos hring, streamReset_stream, StreamEntry.fresh, hstaged, hcovers,
    if_true, hkind, hjudge]
  rfl

theorem streamReset_judge {d : StreamDef} {data : Word} (a : Access) (slot : Nat) (htx : isTx n = true)
    (hstaged : s.cmd.staged.streams[n.val] = some d) (hlength : 1 ≤ d.length) (hkind : a.kind = .write data) (hhigh : a.high = true) :
    (s.streamReset n).judge a (.stream n) slot 0 = .pass (if slot = 0 then .post (.stream n) else .order n slot) := by
  have hcount : (s.streamReset n).slotCount (.stream n) = d.length := by
    simp only [State.slotCount, streamReset_stream, StreamEntry.fresh, hstaged]
  rw [judge_qualified (r := .stream n) htx (by simp [qualifyingWrite, hkind, hhigh, RingId.lastWord])]
  by_cases h : slot = 0
  · rw [if_pos h]
    exact judgeWrite_post (by rw [streamReset_ring]; exact h) (by rw [streamReset_ring, hcount]; exact hlength)
  · rw [if_neg h]
    refine judgeWrite_order (by rw [streamReset_ring]; exact h) ?_
    rw [streamReset_ring]
    exact decide_eq_false (Nat.not_lt_zero _)

end Held

theorem objectSet_stream (r : CommandRecord) (n : Fin 8) : (objectSet r).stream n = named r n.val := by
  rw [named, if_pos (by omega)]
  rfl

theorem objectSet_port (r : CommandRecord) (p : Fin 4) : (objectSet r).port p = named r (8 + p.val) := by
  rw [named, if_pos (by omega)]
  rfl

theorem objectSet_detector (r : CommandRecord) (p : Fin 4) : (objectSet r).detector p = named r (12 + p.val) := by
  rw [named, if_pos (by omega)]
  rfl

theorem objectSet_watch (r : CommandRecord) (w : Fin 4) : (objectSet r).watch w = named r (16 + w.val) := by
  rw [named, if_neg (by omega), Nat.add_sub_cancel_left]
  rfl

theorem apply_answers {r : CommandRecord} (hx : Executing s r 0x06) (hwalk : s.applyWalk (objectSet r) = none) :
    exec .apply s = .next (answered (s.applyAll (objectSet r)) r .done 0 none) :=
  execute_answers (f := applyCommand) hx rfl (by rw [applyCommand, hwalk]; rfl)

end

end Sys2Proof.Machine

namespace Sys2Proof.Proofs

open Sys2Proof Sys2Proof.Machine Sys2Proof.Claims

/-- Settles O45: the walks over ports, streams, detectors and watches, each from the staged copies. -/
theorem applySetsTheNamedObjects : Obligations.ApplySetsTheNamedObjects := by
  intro s r hx hwalk
  obtain ⟨hstreams, hrings, hports, hdetectors, hpath, harb⟩ := applyAll_keeps s (objectSet r)
  obtain ⟨-, -, -, -, hpath', harb'⟩ := portsApplied_keeps s (objectSet r)
  have hstream : ∀ n, (s.applyAll (objectSet r)).stream n = (s.streamsApplied (objectSet r)).stream n := fun n => by
    rw [State.stream, State.stream, hstreams]
  have hport : ∀ p, (s.applyAll (objectSet r)).port p = (s.streamsApplied (objectSet r)).port p := fun p => by
    rw [State.port, State.port, hports]
  have hidle : ∀ p, (s.portsApplied (objectSet r)).idleWord p = (s.applyAll (objectSet r)).idleWord p := fun p => by
    rw [State.idleWord, State.idleWord, hport, streamsApplied_port_active]
  have huse : (s.applyAll (objectSet r)).arb.use =
      (allStreams.filter (objectSet r).stream).foldl PortUse.unclaimed s.arb.use := by
    rw [harb, State.streamsApplied, foldl_applyStream_use, harb']
  have hphase : (∀ x, s.path.phase ≠ .held x) → (s.applyAll (objectSet r)).path.phase =
      (allStreams.filter (objectSet r).stream).foldl PathPhase.unclaimed s.path.phase := fun h => by
    rw [hpath, State.streamsApplied, foldl_applyStream_phase_of_free (by rw [hpath']; exact h), hpath']
  refine ⟨_, apply_answers hx hwalk, tablesOnly_applyAll s (objectSet r), ?_, ?_, fun n hn => ⟨?_, ?_⟩, fun n hn => ⟨?_, ?_⟩,
    fun p hp => ?_, fun p hp => ?_, fun p => ?_, fun w => ?_, fun b hb => ?_, fun b hb => ?_, fun hfetch hdeposit => ?_,
    fun a e n he hacts hn => ?_, fun a e he hfree => ?_, fun hheld hforwarded => ?_, fun h hh hfree => ?_⟩
  · exact (ring_of_rings hrings _).trans (streamsApplied_ring_control _ _ fun _ => nofun)
  · exact (ring_of_rings hrings _).trans (streamsApplied_ring_control _ _ fun _ => nofun)
  · rw [hstream, streamsApplied_stream, objectSet_stream, if_pos hn, hidle]
    rfl
  · rw [ring_of_rings hrings, streamsApplied_ring, objectSet_stream, if_pos hn]
    rfl
  · rw [hstream, streamsApplied_stream, objectSet_stream, hn]
    rfl
  · rw [ring_of_rings hrings, streamsApplied_ring, objectSet_stream, hn]
    rfl
  · rw [hport, streamsApplied_port, portsApplied_port, objectSet_port, if_pos hp]
    simp only [PortEntry.fresh, ite_self, Bool.false_and] <;> rfl
  · rw [hport, streamsApplied_port, portsApplied_port, objectSet_port, hp, objectSet_stream, objectSet_stream]
    rfl
  · rw [State.detector, hdetectors]
    refine (detectorsApplied_detector ..).trans ?_
    rw [streamsApplied_detector, objectSet_detector, objectSet_port, objectSet_stream]
    cases named r (12 + p.val) <;> cases named r (8 + p.val) <;> cases named r (rxOf p).val <;> rfl
  · rw [applyAll_watch, objectSet_watch]
    rfl
  · rw [huse, hb, foldl_unclaimed_fetch]
    simp only [mem_filter_streams, objectSet_stream, Bool.decide_eq_true]
  · rw [huse, hb, foldl_unclaimed_deposit]
    simp only [mem_filter_streams, objectSet_stream, Bool.decide_eq_true]
  · rw [huse, foldl_unclaimed_other hfetch hdeposit]
  · rw [hphase (by rw [he]; nofun), he, foldl_unclaimed_forwarded, if_pos]
    exact List.any_eq_true.2 ⟨n, mem_filter_streams.2 ((objectSet_stream r n).trans hn), onStream_iff.2 hacts⟩
  · rw [hphase (by rw [he]; nofun), he, foldl_unclaimed_forwarded, if_neg]
    intro hany
    obtain ⟨n, hn, hacts⟩ := List.any_eq_true.1 hany
    rw [mem_filter_streams, objectSet_stream, hfree n (onStream_iff.1 hacts)] at hn
    exact nomatch hn
  · rw [hphase hheld, foldl_unclaimed_of_free hforwarded]
  · rw [hpath, hh]
    refine foldl_applyStream_phase_of_settled ((congrArg PathUnit.phase hpath').trans hh) ⟨fun x hx' n hn hring => ?_, by nofun⟩
    cases hx'
    rw [mem_filter_streams, objectSet_stream, hfree n hring] at hn
    exact nomatch hn

/-- Settles O46: the access is judged once, when the walk comes to its stream. -/
theorem applyJudgesTheHeldAccessAgain : Obligations.ApplyJudgesTheHeldAccessAgain := by
  intro s r h n hx hwalk hheld hring
  have hframe := tablesOnly_applyAll s (objectSet r)
  obtain ⟨-, -, -, -, hpath, -⟩ := applyAll_keeps s (objectSet r)
  obtain ⟨-, -, -, hcmd, hpath', -⟩ := portsApplied_keeps s (objectSet r)
  have hheld' : (s.portsApplied (objectSet r)).path.phase = .held h := (congrArg PathUnit.phase hpath').trans hheld
  have hjudged : ∀ ph : PathPhase, named r n.val = true →
      (∀ t : State, t.path.phase = .held h → t.cmd = s.cmd → (t.applyStream n).path.phase = ph) →
      (∀ m, m ≠ n → ph.Settled [m]) → (s.applyAll (objectSet r)).path.phase = ph := fun ph hn ht hsettled => by
    rw [hpath]
    exact foldl_applyStream_phase_of_held (List.Pairwise.filter _ (by decide : allStreams.Nodup))
      (mem_filter_streams.2 ((objectSet_stream r n).trans hn))
      hheld' hring (fun t h hc => ht t h (hc.trans hcmd)) hsettled
  have hplain : ∀ m, m ≠ n → PathPhase.Settled (.forwarded h.access .none) [m] := fun m _ =>
    ⟨by nofun, fun a e he k _ => by cases he; rfl⟩
  refine ⟨_, apply_answers hx hwalk, ?_, ?_, fun hn => ?_, fun hn hstaged => ?_, fun d hn hstaged hlength => ⟨fun hout => ?_,
    fun hbase hend hkind => ?_, fun data hkind hhigh htx => ⟨fun hslot => ?_, fun hbase hend => ?_⟩⟩⟩
  · exact (congrArg (fun u : State => u.path.bus) hframe :)
  · exact (congrArg (fun u : State => u.path.pd) hframe :)
  · refine (congrArg PathUnit.phase hpath).trans (foldl_applyStream_phase_of_settled hheld' ⟨fun x hx' m hm hm' => ?_, by nofun⟩)
    cases hx'
    cases hring.symm.trans hm'
    rw [mem_filter_streams, objectSet_stream, hn] at hm
    exact nomatch hm
  · exact hjudged _ hn (fun t ht hc => applyStream_phase_gone ht hring (hc ▸ hstaged)) hplain
  · refine hjudged _ hn (fun t ht hc => applyStream_phase_outside ht hring (hc ▸ hstaged) ?_) hplain
    rw [Bool.eq_false_iff, Ne, covers_iff]
    omega
  · refine hjudged _ hn (fun t ht hc => applyStream_phase_read ht hring (hc ▸ hstaged) (covers_iff.2 ⟨hbase, hend⟩) hkind)
      fun m hm =>
      ⟨fun x hx k hk => ?_, by nofun⟩
    cases hx
    cases List.mem_singleton.1 hk
    exact fun h => hm (RingId.stream.inj (hring.symm.trans h)).symm
  · refine hjudged _ hn (fun t ht hc => ?_) fun m hm => ⟨by nofun, fun a e he k hk => ?_⟩
    · refine applyStream_phase_write ht hring (hc ▸ hstaged) (covers_iff.2 (by omega)) hkind ?_
      rw [streamReset_judge h.access _ htx (hc ▸ hstaged) hlength hkind hhigh, if_pos (by omega)]
    · cases he
      cases List.mem_singleton.1 hk
      exact beq_eq_false_iff_ne.2 fun h => hm (RingId.stream.inj h).symm
  · refine hjudged _ hn (fun t ht hc => ?_) fun m hm => ⟨by nofun, fun a e he k hk => ?_⟩
    · refine applyStream_phase_write ht hring (hc ▸ hstaged) (covers_iff.2 (by omega)) hkind ?_
      rw [streamReset_judge h.access _ htx (hc ▸ hstaged) hlength hkind hhigh, if_neg (by omega)]
    · cases he
      cases List.mem_singleton.1 hk
      exact beq_eq_false_iff_ne.2 (Ne.symm hm)

end Sys2Proof.Proofs

/-! PROOF. The checks of APPLY over the resulting configuration, in number order (R149 to R151). -/

namespace Sys2Proof.Machine

open Sys2Proof Sys2Proof.Claims

section

variable {s : State} {r : CommandRecord}

/-! ### The walk over the objects -/

/-- Object i passes its checks. -/
def Passes (s : State) (r : CommandRecord) (i : Nat) : Prop := BusyPasses s r i ∧ Consistent s r i

/-- Object i fails with this code. -/
def Fails (s : State) (r : CommandRecord) (i : Nat) (code : ResultCode) : Prop :=
  (code = .busy ∧ ¬ BusyPasses s r i) ∨ (code = .conflict ∧ BusyPasses s r i ∧ ¬ Consistent s r i)

theorem not_passes_of_fails {i : Nat} {code : ResultCode} (h : Fails s r i code) : ¬ Passes s r i := by
  rintro ⟨hbusy, hfits⟩
  obtain ⟨-, h⟩ | ⟨-, -, h⟩ := h
  · exact h hbusy
  · exact h hfits

/-- The outcome of a walk over the objects from `lo` up to `hi`: none, or the first that fails. -/
def Walked (s : State) (r : CommandRecord) (lo hi : Nat) (x : Option (ResultCode × Nat)) : Prop :=
  (x = none → ∀ i, lo ≤ i → i < hi → Passes s r i) ∧
  ∀ code i, x = some (code, i) → lo ≤ i ∧ i < hi ∧ (∀ j, lo ≤ j → j < i → Passes s r j) ∧ Fails s r i code

theorem Walked.nil (s : State) (r : CommandRecord) (lo : Nat) : Walked s r lo lo none :=
  ⟨fun _ i hlo hhi => absurd hhi (Nat.not_lt.2 hlo), by nofun⟩

theorem Walked.append {lo mid hi : Nat} {x y : Option (ResultCode × Nat)} (hx : Walked s r lo mid x) (hy : Walked s r mid hi y)
    (hmid : lo ≤ mid) (hhi : mid ≤ hi) : Walked s r lo hi (x <|> y) := by
  obtain ⟨hpass, hfail⟩ := hx
  obtain ⟨hpass', hfail'⟩ := hy
  cases x with
  | some z =>
    refine ⟨by nofun, fun code i h => ?_⟩
    obtain ⟨hlo, hlt, hbefore, hf⟩ := hfail code i h
    exact ⟨hlo, Nat.lt_of_lt_of_le hlt hhi, hbefore, hf⟩
  | none =>
    refine ⟨fun h i hlo hlt => ?_, fun code i h => ?_⟩
    · by_cases hi : i < mid
      · exact hpass rfl i hlo hi
      · exact hpass' h i (Nat.not_lt.1 hi) hlt
    · obtain ⟨hle, hlt, hbefore, hf⟩ := hfail' code i h
      refine ⟨Nat.le_trans hmid hle, hlt, fun j hlo hj => ?_, hf⟩
      by_cases hjm : j < mid
      · exact hpass rfl j hlo hjm
      · exact hbefore j (Nat.not_lt.1 hjm) hj

/-- One object with a check that passes it or names it as the one that fails. -/
theorem Walked.single {i : Nat} {x : Option (ResultCode × Nat)} (hpass : x = none → Passes s r i)
    (hfail : ∀ code j, x = some (code, j) → j = i ∧ Fails s r i code) : Walked s r i (i + 1) x := by
  refine ⟨fun h j hlo hhi => ?_, fun code j h => ?_⟩
  · obtain rfl : i = j := by omega
    exact hpass h
  · obtain ⟨rfl, hf⟩ := hfail code j h
    exact ⟨Nat.le_refl _, Nat.lt_succ_self _, fun k hlo hk => absurd hk (Nat.not_lt.2 hlo), hf⟩

/-- A walk over consecutive objects. -/
theorem walked_findSome {k : Nat} {f : Fin k → Option (ResultCode × Nat)} {base : Nat} {l : List (Fin k)} {lo : Nat}
    (hl : l.map Fin.val = List.range' lo l.length) (hf : ∀ n ∈ l, Walked s r (base + n.val) (base + n.val + 1) (f n)) :
    Walked s r (base + lo) (base + lo + l.length) (l.findSome? f) := by
  induction l generalizing lo with
  | nil => exact .nil s r _
  | cons n l ih =>
    rw [List.map_cons, List.length_cons, List.range'_succ, List.cons.injEq] at hl
    obtain ⟨rfl, hl⟩ := hl
    have hfirst := hf n List.mem_cons_self
    have hrest := ih hl fun m hm => hf m (List.mem_cons_of_mem _ hm)
    rw [List.findSome?_cons, List.length_cons]
    have hlength : base + (n.val + 1) + l.length = base + n.val + (l.length + 1) := by omega
    have hboth := hfirst.append (hlength ▸ hrest) (Nat.le_succ _) (by omega)
    cases hfn : f n with
    | none => rwa [hfn] at hboth
    | some z => rwa [hfn] at hboth

theorem walked_checkObject {i : Nat} {named busy : Bool} {present : Option Bool}
    (hbusy : BusyPasses s r i ↔ (named && busy) = false) (hfits : Consistent s r i ↔ present ≠ some false) :
    Walked s r i (i + 1) (checkObject named busy present i) := by
  simp only [checkObject]
  split
  · next h =>
    refine .single (by nofun) fun code j hx => ?_
    cases hx
    exact ⟨rfl, .inl ⟨rfl, fun hb => nomatch h.symm.trans (hbusy.1 hb)⟩⟩
  · next h =>
    have hpasses := hbusy.2 (Bool.eq_false_iff.2 h)
    split
    · refine .single (by nofun) fun code j hx => ?_
      cases hx
      exact ⟨rfl, .inr ⟨rfl, hpasses, fun hc => hfits.1 hc rfl⟩⟩
    · next hp => exact .single (fun _ => ⟨hpasses, hfits.2 fun h => hp h⟩) (by nofun)

/-! ### The checks of one object (R149, R150) -/

theorem resStream_eq (s : State) (r : CommandRecord) (n : Fin 8) : s.wouldStream (objectSet r) n = resStream s r n := by
  rw [State.wouldStream, objectSet_stream]
  rfl

theorem resPort_eq (s : State) (r : CommandRecord) (p : Fin 4) : s.wouldPort (objectSet r) p = resPort s r p := by
  rw [State.wouldPort, objectSet_port]
  rfl

theorem resDetector_eq (s : State) (r : CommandRecord) (p : Fin 4) : s.wouldDetector (objectSet r) p = resDetector s r p := by
  rw [State.wouldDetector, objectSet_detector]
  rfl

theorem resWatch_eq (s : State) (r : CommandRecord) (w : Fin 4) : s.wouldWatch (objectSet r) w = resWatch s r w := by
  rw [State.wouldWatch, objectSet_watch]
  rfl

theorem atRest_iff {n : Fin 8} : s.atRest n = true ↔ Rests s n := by
  rw [State.atRest, Rests]
  cases (s.stream n).state <;> simp [StreamState.inRun]

theorem busyPasses_stream (n : Fin 8) : BusyPasses s r n.val ↔ (named r n.val && !s.atRest n) = false := by
  have hn := n.isLt
  have hpasses : BusyPasses s r n.val ↔ (named r n.val = true → Rests s n) :=
    ⟨fun h hnamed => (h hnamed).1 n rfl, fun h hnamed => ⟨fun m hm => Fin.ext hm ▸ h hnamed, fun p hp => by omega,
      fun p hp => by omega⟩⟩
  rw [hpasses, ← atRest_iff]
  cases named r n.val <;> simp

theorem busyPasses_port (p : Fin 4) :
    BusyPasses s r (8 + p.val) ↔ (named r (8 + p.val) && !(s.atRest (txOf p) && s.atRest (rxOf p))) = false := by
  have hpasses : BusyPasses s r (8 + p.val) ↔ (named r (8 + p.val) = true → Rests s (txOf p) ∧ Rests s (rxOf p)) :=
    ⟨fun h hnamed => (h hnamed).2.1 p rfl, fun h hnamed => ⟨fun m hm => by omega,
      fun q hq => (show q = p by omega) ▸ h hnamed, fun q hq => by omega⟩⟩
  rw [hpasses, ← atRest_iff, ← atRest_iff]
  cases named r (8 + p.val) <;> simp

theorem busyPasses_detector (p : Fin 4) : BusyPasses s r (12 + p.val) ↔ (named r (12 + p.val) && !s.atRest (rxOf p)) = false := by
  have hpasses : BusyPasses s r (12 + p.val) ↔ (named r (12 + p.val) = true → Rests s (rxOf p)) :=
    ⟨fun h hnamed => (h hnamed).2.2 p rfl, fun h hnamed => ⟨fun m hm => by omega, fun q hq => by omega,
      fun q hq => (show q = p by omega) ▸ h hnamed⟩⟩
  rw [hpasses, ← atRest_iff]
  cases named r (12 + p.val) <;> simp

theorem busyPasses_watch (w : Fin 4) : BusyPasses s r (16 + w.val) :=
  fun _ => ⟨fun m hm => by omega, fun q hq => by omega, fun q hq => by omega⟩

/-- Two ranges that hold a word each share none. -/
theorem overlap_eq_false_iff {base length base' length' : Nat} (h : 1 ≤ length) (h' : 1 ≤ length') :
    overlap base length base' length' = false ↔
      ∀ a, base ≤ a ∧ a < base + length → ¬ (base' ≤ a ∧ a < base' + length') := by
  rw [overlap, decide_eq_false_iff_not]
  refine ⟨fun hno a ha ha' => hno (by omega), fun hno hyes => ?_⟩
  have := hno (max base base')
  omega

theorem mask_lt_iff {m : BitVec 8} {c : Nat} : m.toNat < 2 ^ c ↔ ∀ j, j < 8 → m.getLsbD j = true → j < c := by
  refine ⟨fun h j _ hj => ?_, fun h => ?_⟩
  · refine Nat.lt_of_not_le fun hc => ?_
    exact nomatch hj.symm.trans (Nat.testBit_lt_two_pow (Nat.lt_of_lt_of_le h (Nat.pow_le_pow_right (by decide) hc)))
  · refine Nat.lt_pow_two_of_testBit _ fun j hj => ?_
    refine Bool.eq_false_iff.2 fun hbit => ?_
    have hbit' : m.getLsbD j = true := hbit
    exact absurd (h j (BitVec.lt_of_getLsbD hbit') hbit') (Nat.not_lt.2 hj)

theorem map_ne_some_false_iff {α : Type} {x : Option α} {f : α → Bool} : x.map f ≠ some false ↔ ∀ d, x = some d → f d = true := by
  cases x with
  | none => simp
  | some d => simp

theorem streamFits_iff (hlength : ∀ n d, resStream s r n = some d → 1 ≤ d.length) {n : Fin 8} {d : StreamDef}
    (hd : resStream s r n = some d) : s.streamFits (objectSet r) n d = true ↔
      (∃ q, resPort s r (portOf n) = some q ∧ d.length % q.channels = 0) ∧ d.base.toNat + d.length - 1 ≤ 0x7FFFF ∧
      (∀ a, InWindow d a → ¬ InControl s a) ∧
      ∀ m d', m ≠ n → resStream s r m = some d' → ∀ a, InWindow d a → ¬ InWindow d' a := by
  have hpos := hlength n d hd
  have hend : d.base.toNat + d.length ≤ 0x80000 ↔ d.base.toNat + d.length - 1 ≤ 0x7FFFF := by omega
  rw [State.streamFits, Bool.and_eq_true, Bool.and_eq_true, Bool.and_eq_true, Bool.not_eq_true', List.all_eq_true,
    overlap_eq_false_iff hpos (by decide), decide_eq_true_iff, hend, and_assoc, and_assoc, resPort_eq]
  refine and_congr ?_ (and_congr Iff.rfl (and_congr Iff.rfl ⟨fun h m d' hm hd' => ?_, fun h m _ => ?_⟩))
  · cases resPort s r (portOf n) <;> simp
  · have hm' := h m (mem_allStreams m)
    rw [resStream_eq, hd', beq_eq_false_iff_ne.2 hm] at hm'
    exact (overlap_eq_false_iff hpos (hlength m d' hd')).1 (by simpa using hm')
  · by_cases hm : m = n
    · simp [hm]
    · rw [resStream_eq]
      cases hd' : resStream s r m with
      | none => simp
      | some d' => simpa [hm] using (overlap_eq_false_iff hpos (hlength m d' hd')).2 (h m d' hm hd')

theorem detectorFits_iff {p : Fin 4} {g : DetectorDef} : s.detectorFits (objectSet r) p g = true ↔
    (∃ d, resStream s r (rxOf p) = some d) ∧
    ∃ q, resPort s r p = some q ∧ ∀ j, j < 8 → g.mask.getLsbD j = true → j < q.channels := by
  rw [State.detectorFits, Bool.and_eq_true, resStream_eq, resPort_eq, Option.isSome_iff_exists]
  refine and_congr Iff.rfl ?_
  cases resPort s r p with
  | none => simp
  | some q => simp [mask_lt_iff]

theorem watchFits_iff {x : WatchDef} : s.watchFits (objectSet r) x = true ↔
    ¬ InControl s x.addr.toNat ∧ ∀ n d, resStream s r n = some d → ¬ InWindow d x.addr.toNat := by
  have hcontrol : overlap x.addr.toNat 1 s.controlBase 400 = false ↔ ¬ InControl s x.addr.toNat := by
    rw [overlap_eq_false_iff (by decide) (by decide)]
    refine ⟨fun h => h _ ⟨Nat.le_refl _, Nat.lt_succ_self _⟩, fun h a ha => ?_⟩
    obtain rfl : x.addr.toNat = a := by omega
    exact h
  rw [State.watchFits, Bool.and_eq_true, Bool.not_eq_true', hcontrol, List.all_eq_true]
  refine and_congr Iff.rfl ⟨fun h n d hd => ?_, fun h n _ => ?_⟩
  · have hn := h n (mem_allStreams n)
    rw [resStream_eq, hd] at hn
    exact fun hin => by simp [covers_iff.2 hin] at hn
  · rw [resStream_eq]
    cases hd : resStream s r n with
    | none => rfl
    | some d => simpa using fun hin => h n d hd (covers_iff.1 hin)

theorem consistent_stream (hlength : ∀ n d, resStream s r n = some d → 1 ≤ d.length) (n : Fin 8) :
    Consistent s r n.val ↔ (s.wouldStream (objectSet r) n).map (s.streamFits (objectSet r) n) ≠ some false := by
  have hn := n.isLt
  rw [map_ne_some_false_iff, resStream_eq]
  refine ⟨fun ⟨hstream, _, _⟩ d hd => (streamFits_iff hlength hd).2 (hstream n d rfl hd),
    fun h => ⟨fun m d hm hd => ?_, fun p g hp => by omega, fun w x hw => by omega⟩⟩
  obtain rfl : n = m := Fin.ext hm
  exact (streamFits_iff hlength hd).1 (h d hd)

theorem consistent_port (p : Fin 4) : Consistent s r (8 + p.val) :=
  ⟨fun m d hm => by omega, fun q g hq => by omega, fun w x hw => by omega⟩

theorem consistent_detector (p : Fin 4) :
    Consistent s r (12 + p.val) ↔ (s.wouldDetector (objectSet r) p).map (s.detectorFits (objectSet r) p) ≠ some false := by
  rw [map_ne_some_false_iff, resDetector_eq]
  refine ⟨fun ⟨_, hdetector, _⟩ g hg => detectorFits_iff.2 (hdetector p g rfl hg),
    fun h => ⟨fun m d hm => by omega, fun q g hq hg => ?_, fun w x hw => by omega⟩⟩
  obtain rfl : p = q := by omega
  exact detectorFits_iff.1 (h g hg)

theorem consistent_watch (w : Fin 4) :
    Consistent s r (16 + w.val) ↔ (s.wouldWatch (objectSet r) w).map (s.watchFits (objectSet r)) ≠ some false := by
  rw [map_ne_some_false_iff, resWatch_eq]
  refine ⟨fun ⟨_, _, hwatch⟩ x hx => watchFits_iff.2 (hwatch w x rfl hx),
    fun h => ⟨fun m d hm => by omega, fun q g hq => by omega, fun v x hv hx => ?_⟩⟩
  obtain rfl : w = v := by omega
  exact watchFits_iff.1 (h x hx)

/-- The walk of APPLY names the first object of the twenty that fails. -/
theorem walked_applyWalk (hlength : ∀ n d, resStream s r n = some d → 1 ≤ d.length) :
    Walked s r 0 20 (s.applyWalk (objectSet r)) := by
  have hstreams : Walked s r (0 + 0) (0 + 0 + 8) _ := walked_findSome (l := allStreams) (lo := 0) (base := 0) rfl fun n _ => by
    rw [Nat.zero_add]
    exact walked_checkObject (busyPasses_stream n) (consistent_stream hlength n)
  have hports : Walked s r (8 + 0) (8 + 0 + 4) _ := walked_findSome (l := allPorts) (lo := 0) (base := 8) rfl fun p _ =>
    walked_checkObject (present := none) (busyPasses_port p) (iff_of_true (consistent_port p) nofun)
  have hdetectors : Walked s r (12 + 0) (12 + 0 + 4) _ := walked_findSome (l := allPorts) (lo := 0) (base := 12) rfl fun p _ =>
    walked_checkObject (busyPasses_detector p) (consistent_detector p)
  have hwatches : Walked s r (16 + 0) (16 + 0 + 4) _ := walked_findSome (l := allPorts) (lo := 0) (base := 16) rfl fun w _ =>
    walked_checkObject (named := named r (16 + w.val)) (iff_of_true (busyPasses_watch w) (Bool.and_false _)) (consistent_watch w)
  have hwalk := hstreams.append (hports.append (hdetectors.append hwatches (by decide) (by decide)) (by decide) (by decide))
    (by decide) (by decide)
  simp only [State.applyWalk, objectSet_stream, objectSet_port, objectSet_detector, objectSet_watch]
  exact hwalk

end

end Sys2Proof.Machine

namespace Sys2Proof.Proofs

open Sys2Proof Sys2Proof.Machine Sys2Proof.Claims

/-- Settles O47: the walk names the first object that fails, by the check that failed. -/
theorem applyChecksTheWholeConfiguration : Obligations.ApplyChecksTheWholeConfiguration := by
  intro s r hlength
  obtain ⟨hnone, hsome⟩ := walked_applyWalk hlength
  have hpasses : (∀ i, i < 20 → Passes s r i) → s.applyWalk (objectSet r) = none := fun h => by
    cases hw : s.applyWalk (objectSet r) with
    | none => rfl
    | some z =>
      obtain ⟨-, hlt, -, hf⟩ := hsome z.1 z.2 hw
      exact absurd (h z.2 hlt) (not_passes_of_fails hf)
  have hfails : ∀ i code, i < 20 → (∀ j, j < i → Passes s r j) → Fails s r i code →
      s.applyWalk (objectSet r) = some (code, i) := fun i code hi hbefore hf => by
    cases hw : s.applyWalk (objectSet r) with
    | none => exact absurd (hnone hw i (Nat.zero_le i) hi) (not_passes_of_fails hf)
    | some z =>
      obtain ⟨c, j⟩ := z
      obtain ⟨-, -, hbefore', hf'⟩ := hsome c j hw
      obtain h | h | h := Nat.lt_trichotomy i j
      · exact absurd (hbefore' i (Nat.zero_le i) h) (not_passes_of_fails hf)
      · subst h
        obtain ⟨rfl, hb⟩ | ⟨rfl, hb, -⟩ := hf
        · obtain ⟨rfl, -⟩ | ⟨-, hb', -⟩ := hf'
          · rfl
          · exact absurd hb' hb
        · obtain ⟨-, hb'⟩ | ⟨rfl, -⟩ := hf'
          · exact absurd hb hb'
          · rfl
      · exact absurd (hbefore j h) (not_passes_of_fails hf')
  have hanswer : ∀ code i, Executing s r 0x06 → s.applyWalk (objectSet r) = some (code, i) →
      exec .apply s = .next (answered s r code i none) := fun code i hx hw =>
    execute_answers (f := applyCommand) hx rfl (by rw [applyCommand, hw]; rfl)
  refine ⟨⟨fun h i hi => hnone h i (Nat.zero_le i) hi, hpasses⟩, fun code i hw => ?_,
    fun hx => ⟨fun h => ?_, fun i hi hbefore => ?_⟩⟩
  · obtain ⟨-, hlt, hbefore, hf⟩ := hsome code i hw
    exact ⟨hlt, fun j hj => hbefore j (Nat.zero_le j) hj, hf⟩
  · exact ⟨_, apply_answers hx (hpasses h)⟩
  · exact ⟨fun hb => hanswer _ i hx (hfails i .busy hi hbefore (.inl ⟨rfl, hb⟩)),
      fun hb hc => hanswer _ i hx (hfails i .conflict hi hbefore (.inr ⟨rfl, hb, hc⟩))⟩

end Sys2Proof.Proofs

/-! PROOF. Channel slots and channel words: what a slot carries, underruns, and the words that fill reserved places. -/

namespace Sys2Proof.Machine

open Sys2Proof Sys2Proof.Claims

section

variable {s : State} {p : Fin 4} {d : PortDef}

theorem channels_of_active (h : (s.port p).active = some d) : s.channels p = d.channels := by
  simp only [State.channels, h]

theorem idleWord_of_active (h : (s.port p).active = some d) : s.idleWord p = d.idle := by
  simp only [State.idleWord, h]

/-- Of two settings of a port the later one stands, whatever stream is set between. -/
theorem setPort_setStream_setPort (s : State) (p : Fin 4) (n : Fin 8) (q q' : PortEntry) (e : StreamEntry) :
    ((s.setPort p q).setStream n e).setPort p q' = (s.setStream n e).setPort p q' := by
  simp [State.setStream, State.setPort]

/-- Of two settings of a stream the later one stands, whatever port is set between. -/
theorem setStream_setPort_setStream (s : State) (p : Fin 4) (n : Fin 8) (q : PortEntry) (e e' : StreamEntry) :
    ((s.setStream n e).setPort p q).setStream n e' = (s.setStream n e').setPort p q := by
  simp [State.setStream, State.setPort]

/-! ### The slot that starts (R92) -/

theorem channelSlotStart_in_run {pos : Nat} (hlive : s.live = true) (hd : (s.port p).active = some d)
    (hpos : (s.port p).framePos = some pos) (hslot : (s.port p).slotsStarted < d.channels)
    (hrun : (s.stream (txOf p)).state = .running ∨ (s.stream (txOf p)).state = .stopping) :
    exec (.channelSlotStart p) s =
      .next ((s.enterSlot p (s.port p).slotsStarted pos).transmitSlot p (s.port p).slotsStarted) := by
  have hstate : ((s.enterSlot p (s.port p).slotsStarted pos).stream (txOf p)).state = (s.stream (txOf p)).state := rfl
  simp only [exec, execChannelSlotStart, whenLive_live _ s hlive, hd, hpos, if_pos hslot, hstate]
  obtain h | h := hrun <;> rw [h]

theorem channelSlotStart_out_of_run {pos : Nat} (hlive : s.live = true) (hd : (s.port p).active = some d)
    (hpos : (s.port p).framePos = some pos) (hslot : (s.port p).slotsStarted < d.channels)
    (hrun : ¬ ((s.stream (txOf p)).state = .running ∨ (s.stream (txOf p)).state = .stopping)) :
    exec (.channelSlotStart p) s = .next ((s.enterSlot p (s.port p).slotsStarted pos).sendWord p d.idle) := by
  have hstate : ((s.enterSlot p (s.port p).slotsStarted pos).stream (txOf p)).state = (s.stream (txOf p)).state := rfl
  simp only [exec, execChannelSlotStart, whenLive_live _ s hlive, hd, hpos, if_pos hslot, hstate]
  cases h : (s.stream (txOf p)).state with
  | running => exact absurd (.inl h) hrun
  | stopping => exact absurd (.inr h) hrun
  | _ => rfl

/-- Without a frame, or without a slot left, no slot starts. -/
theorem channelSlotStart_none (h : (s.port p).active = none ∨ (s.port p).framePos = none ∨ s.channels p ≤ (s.port p).slotsStarted) :
    exec (.channelSlotStart p) s = .next s := by
  simp only [exec, execChannelSlotStart]
  cases hlive : s.live with
  | false => exact whenLive_still _ s hlive
  | true =>
    rw [whenLive_live _ s hlive]
    cases hd : (s.port p).active with
    | none => rfl
    | some d =>
      cases hpos : (s.port p).framePos with
      | none => rfl
      | some pos =>
        rw [hd, hpos, channels_of_active hd] at h
        obtain h | h | h := h
        · exact nomatch h
        · exact nomatch h
        · simp only [if_neg (Nat.not_lt.2 h)]

/-! ### What a slot of a run carries (R92 to R97) -/

theorem enterSlot_port (s : State) (p : Fin 4) (c pos : Nat) :
    (s.enterSlot p c pos).port p = { s.port p with slotsStarted := c + 1, framePos := some (max pos (16 * c)) } :=
  setPort_port_same ..

theorem fetching_eq_false_iff : s.fetching p = false ↔ ∀ b, s.arb.use = .fetch b → b.port ≠ p := by
  simp only [State.fetching]
  cases s.arb.use <;> simp

theorem exhausted_iff : s.exhausted p = true ↔ (s.stream (txOf p)).limitReached = true ∧ (s.port p).txFifo = [] ∧
    ∀ b, s.arb.use = .fetch b → b.port ≠ p := by
  rw [State.exhausted, Bool.and_eq_true, Bool.and_eq_true, List.isEmpty_iff, Bool.not_eq_true', fetching_eq_false_iff, and_assoc]

theorem enoughWords_iff : s.enoughWords p = true ↔
    min (s.channels p) ((s.stream (txOf p)).wordsLeft (s.channels p)) ≤ (s.port p).txFifo.length := by
  rw [State.enoughWords, decide_eq_true_iff]

theorem heldBack_iff {e : StreamEntry} {ds : StreamDef} (h : e.active = some ds) (f : StreamFault) :
    e.heldBack f = true ↔ ds.resume = .cleared ∧ e.flag f = true := by
  simp only [StreamEntry.heldBack, h, Bool.and_eq_true, beq_iff_eq]

section Slot

variable {c : Nat}

theorem transmitSlot_exhausted (h : s.exhausted p = true) : s.transmitSlot p c = s.sendWord p (s.idleWord p) := by
  simp only [State.transmitSlot, h, if_true]

theorem transmitSlot_takes {w : Word} {rest : List Word} (htaking : (s.port p).tx = .taking) (hfifo : (s.port p).txFifo = w :: rest) :
    s.transmitSlot p c = s.takeWord p c w rest := by
  have hexhausted : ¬ s.exhausted p = true := fun h => nomatch hfifo.symm.trans (exhausted_iff.1 h).2.1
  simp only [State.transmitSlot, if_neg hexhausted, htaking, hfifo]

theorem transmitSlot_underruns (hexhausted : ¬ s.exhausted p = true) (htaking : (s.port p).tx = .taking)
    (hfifo : (s.port p).txFifo = []) : s.transmitSlot p c = s.beginUnderrun p c := by
  simp only [State.transmitSlot, if_neg hexhausted, htaking, hfifo]

theorem transmitSlot_waits (hexhausted : ¬ s.exhausted p = true) (hwaiting : (s.port p).tx = .waiting)
    (h : ¬ s.enoughWords p = true ∨ (s.stream (txOf p)).heldBack .underrun = true) :
    s.transmitSlot p c = (s.sendWord p ((s.stream (txOf p)).replayOf c)).occur (txOf p) .underrun c := by
  have hcond : (!s.enoughWords p || (s.stream (txOf p)).heldBack .underrun) = true := by
    obtain h | h := h <;> simp [h]
  simp only [State.transmitSlot, if_neg hexhausted, hwaiting, hcond, if_true]

theorem transmitSlot_misaligned (hexhausted : ¬ s.exhausted p = true) (hwaiting : (s.port p).tx = .waiting)
    (henough : s.enoughWords p = true) (hheld : (s.stream (txOf p)).heldBack .underrun = false) (hc : c ≠ (s.stream (txOf p)).k) :
    s.transmitSlot p c = s.sendWord p ((s.stream (txOf p)).replayOf c) := by
  simp only [State.transmitSlot, if_neg hexhausted, hwaiting, henough, hheld, if_neg hc, Bool.not_true, Bool.or_false,
    Bool.false_eq_true, if_false]
  split <;> rfl

theorem transmitSlot_resumes {w : Word} {rest : List Word} (hwaiting : (s.port p).tx = .waiting) (henough : s.enoughWords p = true)
    (hheld : (s.stream (txOf p)).heldBack .underrun = false) (hc : c = (s.stream (txOf p)).k)
    (hfifo : (s.port p).txFifo = w :: rest) : s.transmitSlot p c = s.resumeTaking p c w rest := by
  have hexhausted : ¬ s.exhausted p = true := fun h => nomatch hfifo.symm.trans (exhausted_iff.1 h).2.1
  simp only [State.transmitSlot, if_neg hexhausted, hwaiting, henough, hheld, hfifo, if_pos hc, Bool.not_true, Bool.or_false,
    Bool.false_eq_true, if_false]

end Slot

/-- An underrun begins: WAITING, with the starvation timer of a RUNNING stream at 0 (R95). -/
theorem beginUnderrun_eq (s : State) (p : Fin 4) (c : Nat) : s.beginUnderrun p c =
    ((s.setPort p { s.port p with tx := .waiting, slotWord := (s.stream (txOf p)).replayOf c }).setStream (txOf p)
      { s.stream (txOf p) with starvation := if (s.stream (txOf p)).state = .running then some 0
                                             else (s.stream (txOf p)).starvation }).occur (txOf p) .underrun c := by
  simp only [State.beginUnderrun]
  split
  · rfl
  · exact congrArg (fun t => State.occur t (txOf p) .underrun c) (setStream_self (s.setPort p _) (txOf p)).symm

/-- A run resumes: TAKING again, the starvation timer stopped, and the head word sent (R97). -/
theorem resumeTaking_eq (s : State) (p : Fin 4) (c : Nat) (w : Word) (rest : List Word) : s.resumeTaking p c w rest =
    (s.setStream (txOf p) { (s.stream (txOf p)).took (s.channels p) c (sentValue (s.stream (txOf p)) (s.idleWord p) w) with
      starvation := none }).setPort p
      { s.port p with tx := .taking, txFifo := rest, slotWord := sentValue (s.stream (txOf p)) (s.idleWord p) w } := by
  have hport := setPort_port_same (s.setStream (txOf p) { s.stream (txOf p) with starvation := none }) p
    { s.port p with tx := .taking }
  have hstream : (((s.setStream (txOf p) { s.stream (txOf p) with starvation := none }).setPort p
      { s.port p with tx := .taking }).stream (txOf p)) = _ := setStream_stream_same ..
  have hchannels := channels_setPort (s.setStream (txOf p) { s.stream (txOf p) with starvation := none }) (p := p)
    (q := { s.port p with tx := .taking }) rfl
  have hidle : ((s.setStream (txOf p) { s.stream (txOf p) with starvation := none }).setPort p
      { s.port p with tx := .taking }).idleWord p = s.idleWord p := by
    rw [State.idleWord, hport]
    rfl
  simp only [State.resumeTaking, State.takeWord, hport, hstream, hchannels, hidle, setStream_channels,
    setStream_setPort_setStream, setPort_setPort]
  rfl

/-- The port has a frame whose next slot or word is one of its channels. -/
theorem exists_frame_of {k : Nat}
    (h : ¬ (s.live = false ∨ (s.port p).active = none ∨ (s.port p).framePos = none ∨ s.channels p ≤ k)) :
    s.live = true ∧ ∃ d pos, (s.port p).active = some d ∧ (s.port p).framePos = some pos ∧ k < d.channels := by
  simp only [not_or, Bool.not_eq_false, ← Option.isSome_iff_ne_none, Option.isSome_iff_exists, Nat.not_le] at h
  obtain ⟨hlive, ⟨d, hd⟩, ⟨pos, hpos⟩, hk⟩ := h
  exact ⟨hlive, d, pos, hd, hpos, channels_of_active hd ▸ hk⟩

/-! ### SDOn (R89) -/

theorem sdoHalf_of_none {half : Nat} (h : (s.port p).active = none ∨ (s.port p).framePos = none) : s.sdoHalf p half = false := by
  have hnone : s.sdo p = none := by
    simp only [State.sdo]
    obtain h | h := h
    · rw [h]
    · rw [h]
      split <;> simp_all
  simp only [State.sdoHalf, hnone]
  split <;> simp_all

theorem sdoHalf_iff {pos half : Nat} (hd : (s.port p).active = some d) (hpos : (s.port p).framePos = some pos) :
    s.sdoHalf p half = true ↔ 1 ≤ (s.port p).slotsStarted ∧ pos < 16 * d.channels ∧
      (s.port p).slotWord.getMsbD (half / 2) = true ∧
      ¬ (d.role = .slave ∧ d.shape = .span ∧ (s.port p).slotsStarted = 1 ∧ half = 0) := by
  simp only [State.sdoHalf, State.sdo, hd, hpos]
  by_cases h : 0 < (s.port p).slotsStarted ∧ pos < 16 * d.channels
  · have hlate : (d.knowsLate && (s.port p).slotsStarted == 1 && half == 0) = true ↔
        d.role = .slave ∧ d.shape = .span ∧ (s.port p).slotsStarted = 1 ∧ half = 0 := by
      simp only [PortDef.knowsLate, Bool.and_eq_true, beq_iff_eq, and_assoc]
    rw [if_pos h, ← hlate, and_iff_right (Nat.succ_le_of_lt h.1), and_iff_right h.2]
    simp only [Bool.and_eq_true, Bool.not_eq_true', Bool.eq_false_iff, Ne]
  · rw [if_neg h]
    exact iff_of_false nofun fun hyes => h ⟨hyes.1, hyes.2.1⟩

/-! ### Channel words (R100, R103, R113) -/

theorem fillReserved_append {w : Word} {f1 f2 : List RxEntry} {c : Nat} (h : ∀ i, RxEntry.reserved i ∉ f1) :
    fillReserved w (f1 ++ .reserved c :: f2) = f1 ++ .sample w c :: f2 := by
  induction f1 with
  | nil => rfl
  | cons x f1 ih =>
    have hrest := ih fun i hi => h i (List.mem_cons_of_mem _ hi)
    cases x with
    | reserved i => exact absurd List.mem_cons_self (h i)
    | sample v i => exact congrArg (List.cons (.sample v i)) hrest
    | mark k t => exact congrArg (List.cons (.mark k t)) hrest

theorem magnitude_eq (w : Word) : magnitude w = if w = 0x8000 then 32767 else w.toInt.natAbs := by
  split
  · next h => subst h; decide
  · next h =>
    have hlow := BitVec.le_toInt w
    have hhigh := BitVec.toInt_lt (x := w)
    have hne : w.toInt ≠ -32768 := fun heq => h (BitVec.eq_of_toInt_eq (heq.trans (by decide)))
    rw [magnitude]
    omega

/-- The entry of the port after a channel word. -/
def PortEntry.heard (q : PortEntry) (channels pos : Nat) (w : Word) : PortEntry :=
  { q with
    wordsDone := q.wordsDone + 1
    framePos := some (max pos (16 * q.wordsDone + 15))
    rxFifo := if q.admitted then fillReserved w q.rxFifo else q.rxFifo
    admitted := q.admitted && decide (q.wordsDone + 1 < channels) }

theorem rxChannelWordComplete_live {pos : Nat} (sdi : Vector Bool 16) (hlive : s.live = true) (hd : (s.port p).active = some d)
    (hpos : (s.port p).framePos = some pos) (hword : (s.port p).wordsDone < d.channels) :
    exec (.rxChannelWordComplete p sdi) s = .next (
      if (s.stream (rxOf p)).state = .running then
        (s.setPort p ((s.port p).heard d.channels pos (sampledWord sdi))).setDetector p
          ((s.detector p).hear (s.port p).wordsDone (sampledWord sdi))
      else s.setPort p ((s.port p).heard d.channels pos (sampledWord sdi))) := by
  simp only [exec, execRxChannelWordComplete, whenLive_live _ s hlive, hd, hpos, if_pos hword, PortEntry.heard]
  rfl

theorem rxChannelWordComplete_none (sdi : Vector Bool 16)
    (h : (s.port p).active = none ∨ (s.port p).framePos = none ∨ s.channels p ≤ (s.port p).wordsDone) :
    exec (.rxChannelWordComplete p sdi) s = .next s := by
  simp only [exec, execRxChannelWordComplete]
  cases hlive : s.live with
  | false => exact whenLive_still _ s hlive
  | true =>
    rw [whenLive_live _ s hlive]
    cases hd : (s.port p).active with
    | none => rfl
    | some d =>
      cases hpos : (s.port p).framePos with
      | none => rfl
      | some pos =>
        rw [hd, hpos, channels_of_active hd] at h
        obtain h | h | h := h
        · exact nomatch h
        · exact nomatch h
        · simp only [if_neg (Nat.not_lt.2 h)]

theorem hear_of_none {x : DetectorEntry} {c : Nat} {w : Word} (h : x.active = none) : x.hear c w = x := by
  simp only [DetectorEntry.hear, h]

theorem hear_of_some {x : DetectorEntry} {g : DetectorDef} (c : Nat) (w : Word) (h : x.active = some g) :
    x.hear c w = { x with peak := if g.mask.getLsbD c then max x.peak (magnitude w) else x.peak } := by
  simp only [DetectorEntry.hear, h]
  rw [← h]
  split <;> rfl

/-- A channel word of SDIn changes nothing that SDOn shows. -/
theorem sdoHalf_heard {pos : Nat} (w : Word) (hd : (s.port p).active = some d) (hpos : (s.port p).framePos = some pos)
    (hword : (s.port p).wordsDone < d.channels) (q : Fin 4) (half : Nat) :
    (s.setPort p ((s.port p).heard d.channels pos w)).sdoHalf q half = s.sdoHalf q half := by
  by_cases hq : q = p
  · subst hq
    have hport := setPort_port_same s q ((s.port q).heard d.channels pos w)
    rw [Bool.eq_iff_iff, sdoHalf_iff (by rw [hport]; exact hd) (congrArg PortEntry.framePos hport), sdoHalf_iff hd hpos, hport]
    have hslots : max pos (16 * (s.port q).wordsDone + 15) < 16 * d.channels ↔ pos < 16 * d.channels := by omega
    rw [hslots]
    rfl
  · have hport := setPort_port_other s p q ((s.port p).heard d.channels pos w) hq
    simp only [State.sdoHalf, State.sdo, hport]

end

end Sys2Proof.Machine

namespace Sys2Proof.Proofs

open Sys2Proof Sys2Proof.Machine Sys2Proof.Claims

/-- Settles O36: by the run of the stream, and by what the TX FIFO holds. -/
theorem channelSlotCarriesItsWord : Obligations.ChannelSlotCarriesItsWord := by
  refine ⟨fun s p d pos hlive hd hpos hslot => ⟨fun hrun => ?_, fun hrun hlimit hfifo hfetch => ?_,
      fun w rest hrun htaking hfifo => ?_⟩,
    fun s p h => channelSlotStart_none h, fun s p half h => sdoHalf_of_none h, fun s p d pos half hd hpos => sdoHalf_iff hd hpos,
    fun s p sdi => ?_⟩
  · rw [channelSlotStart_out_of_run hlive hd hpos hslot hrun, State.sendWord, enterSlot_port, State.enterSlot, setPort_setPort]
  · rw [channelSlotStart_in_run hlive hd hpos hslot hrun, transmitSlot_exhausted, State.sendWord, enterSlot_port,
      idleWord_of_active (by rw [enterSlot_port]; exact hd), State.enterSlot, setPort_setPort]
    exact exhausted_iff.2 ⟨hlimit, by rw [enterSlot_port]; exact hfifo, hfetch⟩
  · have hd' : ((s.enterSlot p (s.port p).slotsStarted pos).port p).active = some d := by rw [enterSlot_port]; exact hd
    rw [channelSlotStart_in_run hlive hd hpos hslot hrun, transmitSlot_takes (w := w) (rest := rest) (by rw [enterSlot_port]; exact htaking)
      (by rw [enterSlot_port]; exact hfifo)]
    simp only [State.takeWord, enterSlot_port, channels_of_active hd', idleWord_of_active hd']
    exact congrArg Host.Outcome.next (setPort_setStream_setPort s _ _ _ _ _)
  · by_cases h : s.live = false ∨ (s.port p).active = none ∨ (s.port p).framePos = none ∨ s.channels p ≤ (s.port p).wordsDone
    · refine ⟨s, h.elim (fun hdead => ?_) (rxChannelWordComplete_none sdi), fun _ _ => rfl⟩
      exact exec_still hdead (by nofun) (by nofun) (by nofun) (by nofun)
    · obtain ⟨hlive, d, pos, hd, hpos, hword⟩ := exists_frame_of h
      refine ⟨_, rxChannelWordComplete_live sdi hlive hd hpos hword, fun q half => ?_⟩
      rw [apply_ite (fun t : State => t.sdoHalf q half)]
      exact (ite_self _).trans (sdoHalf_heard _ hd hpos hword q half)

/-- Settles O37: the head of the FIFO, what is left of the run, and the channel of the slot decide. -/
theorem underrunWaitsAndEndsByResumingOrStarving : Obligations.UnderrunWaitsAndEndsByResumingOrStarving := by
  refine ⟨fun s p d ds pos hlive hd hpos hslot hds hrun => ?_, fun s p => ⟨fun n hlive hstate htimer => ?_, fun hnot => ?_⟩⟩
  · have hport := enterSlot_port s p (s.port p).slotsStarted pos
    have hd' : ((s.enterSlot p (s.port p).slotsStarted pos).port p).active = some d := by rw [hport]; exact hd
    have hexhausted := (exhausted_iff (s := s.enterSlot p (s.port p).slotsStarted pos) (p := p)).1
    have henough := enoughWords_iff (s := s.enterSlot p (s.port p).slotsStarted pos) (p := p)
    have hheld := heldBack_iff hds .underrun
    rw [hport] at hexhausted
    rw [hport, channels_of_active hd'] at henough
    rw [channelSlotStart_in_run hlive hd hpos hslot hrun]
    refine ⟨fun hspent htaking hfifo => ?_, fun hspent hwaiting hwait => ?_, fun hspent hwaiting hwords hfree hc => ?_,
      fun w rest hwaiting hwords hfree hc hfifo => ?_⟩
    · rw [transmitSlot_underruns (fun h => hspent (hexhausted h)) (by rw [hport]; exact htaking) (by rw [hport]; exact hfifo),
        beginUnderrun_eq, hport, State.enterSlot, setPort_setPort]
      rfl
    · rw [transmitSlot_waits (fun h => hspent (hexhausted h)) (by rw [hport]; exact hwaiting)
        (hwait.imp (fun hn h => hn (henough.1 h)) hheld.2), State.sendWord, hport, State.enterSlot, setPort_setPort]
      rfl
    · rw [transmitSlot_misaligned (fun h => hspent (hexhausted h)) (by rw [hport]; exact hwaiting) (henough.2 hwords)
        (Bool.eq_false_iff.2 fun h => hfree (hheld.1 h)) hc, State.sendWord, hport, State.enterSlot, setPort_setPort]
      rfl
    · rw [transmitSlot_resumes (w := w) (rest := rest) (by rw [hport]; exact hwaiting) (henough.2 hwords)
        (Bool.eq_false_iff.2 fun h => hfree (hheld.1 h)) hc (by rw [hport]; exact hfifo), resumeTaking_eq, hport,
        channels_of_active hd', idleWord_of_active hd', State.enterSlot, setPort_setStream_setPort]
      rfl
  · simp only [exec, execStarvationExpiry, whenLive_live _ s hlive, hstate, htimer]
  · simp only [exec, execStarvationExpiry]
    cases hlive : s.live with
    | false => exact whenLive_still _ s hlive
    | true =>
      rw [whenLive_live _ s hlive]
      split
      · next hstate htimer => exact absurd hnot (by simp [hstate, htimer])
      · rfl

/-- Settles O38: the place, the count of words and the peak. -/
theorem channelWordFillsItsPlace : Obligations.ChannelWordFillsItsPlace := by
  refine ⟨fun s p d pos sdi w hlive hd hpos hword hbits => ?_, fun s p sdi h => rxChannelWordComplete_none sdi h⟩
  obtain rfl := eq_sampledWord sdi w hbits
  have hexec := rxChannelWordComplete_live sdi hlive hd hpos hword
  have hport := setPort_port_same s p ((s.port p).heard d.channels pos (sampledWord sdi))
  have hothers : OtherPortsKept s (s.setPort p ((s.port p).heard d.channels pos (sampledWord sdi))) p := fun q hq =>
    ⟨setPort_port_other s p q _ hq, rfl, rfl, rfl⟩
  have hfifo : (s.port p).admitted = false → ((s.port p).heard d.channels pos (sampledWord sdi)).rxFifo = (s.port p).rxFifo := fun h => by
    rw [PortEntry.heard, h]
    rfl
  have hplace : ∀ f1 c' f2, (s.port p).admitted = true → (s.port p).rxFifo = f1 ++ .reserved c' :: f2 →
      (∀ i, RxEntry.reserved i ∉ f1) → ((s.port p).heard d.channels pos (sampledWord sdi)).rxFifo =
        f1 ++ .sample (sampledWord sdi) c' :: f2 := fun f1 c' f2 h heq hfree => by
    rw [← fillReserved_append hfree, ← heq]
    exact if_pos h
  have hentry : (s.setPort p ((s.port p).heard d.channels pos (sampledWord sdi))).port p = { s.port p with
      wordsDone := (s.port p).wordsDone + 1, framePos := some (max pos (16 * (s.port p).wordsDone + 15))
      rxFifo := ((s.setPort p ((s.port p).heard d.channels pos (sampledWord sdi))).port p).rxFifo
      admitted := (s.port p).admitted && decide ((s.port p).wordsDone + 1 < d.channels) } := by
    rw [hport]
    rfl
  by_cases hrun : (s.stream (rxOf p)).state = .running
  · rw [if_pos hrun] at hexec
    refine ⟨_, hexec, rfl, fun q hq => ⟨(hothers q hq).1, setDetector_detector_other _ _ _ _ hq, rfl, rfl⟩, hentry, ?_, ?_,
      fun hnot => ?_, fun g _ hg => ?_⟩
    · exact fun h => (congrArg PortEntry.rxFifo hport).trans (hfifo h)
    · exact fun f1 c' f2 h heq hfree => (congrArg PortEntry.rxFifo hport).trans (hplace f1 c' f2 h heq hfree)
    · exact (setDetector_detector_same ..).trans (hear_of_none (hnot.resolve_left fun h => h hrun))
    · rw [← magnitude_eq]
      exact (setDetector_detector_same ..).trans (hear_of_some _ _ hg)
  · rw [if_neg hrun] at hexec
    refine ⟨_, hexec, rfl, hothers, hentry, ?_, ?_, fun _ => rfl, fun g h => absurd h hrun⟩
    · exact fun h => (congrArg PortEntry.rxFifo hport).trans (hfifo h)
    · exact fun f1 c' f2 h heq hfree => (congrArg PortEntry.rxFifo hport).trans (hplace f1 c' f2 h heq hfree)

end Sys2Proof.Proofs

/-! PROOF. The frame boundary: its order, the work of the transmit side, and what the receive side leaves to it (R55, R57, R64, R90). -/

namespace Sys2Proof.Machine

open Sys2Proof Sys2Proof.Claims

section

variable {s t u : State} {p : Fin 4}

/-! ### Work of the receive side -/

/-- Only the receive side of port p is worked on: its stream, its RX FIFO and frame admission, its detector, and the events. -/
structure RxWork (p : Fin 4) (s t : State) : Prop where
  arb : t.arb = s.arb
  txStream : t.stream (txOf p) = s.stream (txOf p)
  port : t.port p = { s.port p with rxFifo := (t.port p).rxFifo, admitted := (t.port p).admitted }
  frame : (t.stream (rxOf p)).flag .frame = (s.stream (rxOf p)).flag .frame ∧
    (t.stream (rxOf p)).faultCount .frame = (s.stream (rxOf p)).faultCount .frame

theorem RxWork.refl (p : Fin 4) (s : State) : RxWork p s s := ⟨rfl, rfl, rfl, rfl, rfl⟩

theorem RxWork.trans (h : RxWork p s t) (h' : RxWork p t u) : RxWork p s u :=
  ⟨h'.arb.trans h.arb, h'.txStream.trans h.txStream, by rw [h'.port, h.port], h'.frame.1.trans h.frame.1, h'.frame.2.trans h.frame.2⟩

theorem RxWork.after (h' : RxWork p t u) (h : RxWork p s t) : RxWork p s u := h.trans h'

theorem RxWork.ite {c : Prop} [Decidable c] (h : RxWork p s t) (h' : RxWork p s u) : RxWork p s (if c then t else u) := by
  split
  · exact h
  · exact h'

theorem rxWork_setStream {e : StreamEntry} (hflag : e.flag .frame = (s.stream (rxOf p)).flag .frame)
    (hcount : e.faultCount .frame = (s.stream (rxOf p)).faultCount .frame) : RxWork p s (s.setStream (rxOf p) e) :=
  ⟨rfl, setStream_stream_other _ _ _ _ (txOf_ne_rxOf p p), rfl, by rw [setStream_stream_same]; exact ⟨hflag, hcount⟩⟩

theorem rxWork_setPort {q : PortEntry} (h : q = { s.port p with rxFifo := q.rxFifo, admitted := q.admitted }) :
    RxWork p s (s.setPort p q) :=
  ⟨rfl, rfl, by rw [setPort_port_same]; exact h, rfl, rfl⟩

theorem rxWork_raiseStreamAt (p : Fin 4) (s : State) (n : Fin 8) (enabled : Enables → Bool) (tag : Tag) (kind : EventKind)
    (a b c : Word) : RxWork p s (s.raiseStreamAt n enabled tag kind a b c) := by
  rw [raiseStreamAt_raisedBy]
  exact ⟨rfl, rfl, rfl, rfl, rfl⟩

theorem rxWork_startRunning (p : Fin 4) (s : State) : RxWork p s (s.startRunning (rxOf p)) :=
  .after (rxWork_raiseStreamAt ..) (rxWork_setStream rfl rfl)

theorem rxWork_boundaryRx (p : Fin 4) (s : State) : RxWork p s (s.boundaryRx p) := by
  simp only [State.boundaryRx]
  split
  · exact rxWork_startRunning p s
  all_goals exact .refl p s

/-- A fault leaves the flags and counts of the others. -/
theorem occurred_flag_other {f f' : StreamFault} (h : f.index.val ≠ f'.index.val) (e : StreamEntry) :
    (e.occurred f).flag f' = e.flag f' := Vector.getElem_set_ne f.index.isLt f'.index.isLt h

theorem occurred_faultCount_other {f f' : StreamFault} (h : f.index.val ≠ f'.index.val) (e : StreamEntry) :
    (e.occurred f).faultCount f' = e.faultCount f' := Vector.getElem_set_ne f.index.isLt f'.index.isLt h

theorem rxWork_overrun (p : Fin 4) (s : State) (index : Nat) : RxWork p s (s.occur (rxOf p) .overrun index) := by
  have hset : RxWork p s (s.setStream (rxOf p) ((s.stream (rxOf p)).occurred .overrun)) :=
    rxWork_setStream (occurred_flag_other (by decide) _) (occurred_faultCount_other (by decide) _)
  exact .ite (.refl p s) (.ite hset (.after (rxWork_raiseStreamAt ..) hset))

theorem rxWork_placeMark (p : Fin 4) (kind : MarkKind) (s : State) : RxWork p s (s.placeMark p kind) := rxWork_setPort rfl

theorem rxWork_closeGate (p : Fin 4) (s : State) : RxWork p s (s.closeGate p) :=
  .ite (.after (rxWork_setStream rfl rfl) (rxWork_placeMark p .segEnd s)) (.refl p s)

theorem rxWork_checkLimit (p : Fin 4) (s : State) : RxWork p s (s.checkLimit (rxOf p)) := by
  simp only [State.checkLimit]
  split
  · exact .refl p s
  · refine .ite ?_ (.refl p s)
    split
    · exact .after (rxWork_raiseStreamAt ..) (rxWork_setStream rfl rfl)
    · have hset : RxWork p s (s.setStream (rxOf p) { s.stream (rxOf p) with limitReached := true }) := rxWork_setStream rfl rfl
      exact .ite (rxWork_setStream rfl rfl) (hset.trans (by rw [portOf_rxOf]; exact rxWork_closeGate p _))

theorem rxWork_admission (p : Fin 4) (s : State) : RxWork p s (s.admission p) := by
  have hadmit : RxWork p s (s.admitFrame p) :=
    .after (rxWork_checkLimit p _) (.after (rxWork_setStream rfl rfl) (rxWork_setPort rfl))
  exact .ite (.ite (.refl p s) (.ite (rxWork_overrun ..) (.ite (rxWork_overrun ..) hadmit))) (.refl p s)

theorem rxWork_raiseSignal (p : Fin 4) (s : State) (old new : DetectorState) (peak : Nat) :
    RxWork p s (s.raiseSignal p old new peak) :=
  .ite (rxWork_raiseStreamAt ..) (.ite (rxWork_raiseStreamAt ..) (.ite (rxWork_raiseStreamAt ..) (.refl p s)))

theorem rxWork_moveGate (p : Fin 4) (s : State) (old new : DetectorState) : RxWork p s (s.moveGate p old new) :=
  .ite (.ite (.ite (.after (rxWork_setStream rfl rfl) (rxWork_placeMark p .segStart s)) (.refl p s))
    (.ite (rxWork_closeGate p s) (.refl p s)))
    (.refl p s)

theorem rxWork_frameEnd (p : Fin 4) (s : State) : RxWork p s (s.frameEnd p) := by
  simp only [State.frameEnd]
  split
  · exact .refl p s
  · exact .ite (.after (rxWork_moveGate ..) (.after (rxWork_raiseSignal ..) ⟨rfl, rfl, rfl, rfl, rfl⟩)) ⟨rfl, rfl, rfl, rfl, rfl⟩

theorem rxWork_processHead (p : Fin 4) (f : List RxEntry) (s : State) : RxWork p s (State.processHead p f s) := by
  induction f generalizing s with
  | nil => exact .refl p s
  | cons x f ih =>
    cases x with
    | mark kind tag =>
      refine .after (ih _) (.after ?_ (rxWork_setPort (q := { s.port p with rxFifo := f }) rfl))
      cases kind <;> exact .after (rxWork_setStream rfl rfl) (rxWork_raiseStreamAt ..)
    | _ => exact .refl p s

theorem rxWork_processMarks (p : Fin 4) (s : State) : RxWork p s (s.processMarks p) := by
  simp only [State.processMarks]
  split
  · exact .ite (.refl p s) (rxWork_processHead ..)
  · exact .ite (.refl p s) (rxWork_processHead ..)
  · exact .refl p s

/-! ### The transmit side -/

theorem boundaryTx_pending (h : (s.stream (txOf p)).state = .pending) : s.boundaryTx p =
    { s.setStream (txOf p) { s.stream (txOf p) with state := .running } with
      events := raisedBy (s.stream (txOf p)).active Enables.lifecycle s.events ⟨.streamStarted, BitVec.ofNat 8 (txOf p).val,
        word ((s.stream (txOf p)).active.elim 0 StreamDef.runFrames), word (s.ring (.stream (txOf p))).consumer, 0,
        s.time.counter⟩ } := by
  simp only [State.boundaryTx, h, State.startRunning, State.raiseStream, raiseStreamAt_raisedBy, setStream_stream_same, isTx_txOf]
  cases (s.stream (txOf p)).active <;> rfl

theorem boundaryTx_stopping (h : (s.stream (txOf p)).state = .stopping) : s.boundaryTx p =
    { (s.setStream (txOf p) { (s.stream (txOf p)).ended with
        discarded := (s.stream (txOf p)).discarded + (s.port p).txFifo.length }).setPort p { s.port p with txFifo := [] } with
      arb := { s.arb with use := s.arb.use.afterRun (txOf p) }
      events := raisedBy (s.stream (txOf p)).active Enables.lifecycle s.events ⟨.streamEnded, BitVec.ofNat 8 (txOf p).val,
        word (((s.stream (txOf p)).stopping.getD .stopped).ends).number, wholeFrames (s.stream (txOf p)).sent (s.channels p),
        word (min 65535 ((s.stream (txOf p)).discarded + (s.port p).txFifo.length)), s.time.counter⟩ } := by
  have hcut : s.boundaryTx p = s.cutRun (txOf p) ((s.stream (txOf p)).stopping.getD .stopped).ends := by
    simp only [State.boundaryTx, h, State.cutRun, isTx_txOf, if_true, portOf_txOf]
  rw [hcut, cutRun_eq]
  simp only [State.cutEvents, StreamEntry.segmentCut, isTx_txOf, Bool.not_true, Bool.false_and, Bool.false_eq_true, if_false, portOf_txOf,
    State.thrown, if_true, StreamEntry.cut, PortEntry.emptied, Bool.and_true, StreamEntry.ended, StreamEntry.endEvent,
    StreamEntry.wordsMoved]
  rfl

theorem boundaryTx_spent (h : (s.stream (txOf p)).state = .running) (hspent : s.exhausted p = true) : s.boundaryTx p =
    { s.setStream (txOf p) (s.stream (txOf p)).ended with
      arb := { s.arb with use := s.arb.use.afterRun (txOf p) }
      events := raisedBy (s.stream (txOf p)).active Enables.lifecycle s.events ⟨.streamEnded, BitVec.ofNat 8 (txOf p).val, 1,
        wholeFrames (s.stream (txOf p)).sent (s.channels p), word (min 65535 (s.stream (txOf p)).discarded), s.time.counter⟩ } := by
  simp only [State.boundaryTx, h, hspent, if_true, endRun_raisedBy, StreamEntry.endEvent, StreamEntry.wordsMoved, isTx_txOf, portOf_txOf]
  rfl

theorem boundaryTx_other (hpending : (s.stream (txOf p)).state ≠ .pending) (hstopping : (s.stream (txOf p)).state ≠ .stopping)
    (hspent : ¬ ((s.stream (txOf p)).state = .running ∧ s.exhausted p = true)) : s.boundaryTx p = s := by
  simp only [State.boundaryTx]
  split
  · next h => exact absurd h hpending
  · next h => exact absurd h hstopping
  · next h => exact if_neg fun hx => hspent ⟨h, hx⟩
  all_goals rfl

/-- What the transmit side of a boundary leaves. -/
structure TxWork (p : Fin 4) (s t : State) : Prop where
  others : ∀ m, m ≠ txOf p → t.stream m = s.stream m
  port : t.port p = { s.port p with txFifo := (t.port p).txFifo }
  detectors : t.detectors = s.detectors
  rings : t.rings = s.rings
  time : t.time = s.time
  use : t.arb.use = s.arb.use ∨ t.arb.use = s.arb.use.afterRun (txOf p)

theorem txWork_boundaryTx (p : Fin 4) (s : State) : TxWork p s (s.boundaryTx p) := by
  by_cases hpending : (s.stream (txOf p)).state = .pending
  · rw [boundaryTx_pending hpending]
    exact ⟨fun m hm => setStream_stream_other _ _ _ _ hm, rfl, rfl, rfl, rfl, .inl rfl⟩
  · by_cases hstopping : (s.stream (txOf p)).state = .stopping
    · rw [boundaryTx_stopping hstopping]
      refine ⟨fun m hm => setStream_stream_other _ _ _ _ hm, ?_, rfl, rfl, rfl, .inr rfl⟩
      simp only [State.setStream, State.setPort, State.port, Vector.getElem_set_self]
    · by_cases hspent : (s.stream (txOf p)).state = .running ∧ s.exhausted p = true
      · rw [boundaryTx_spent hspent.1 hspent.2]
        exact ⟨fun m hm => setStream_stream_other _ _ _ _ hm, rfl, rfl, rfl, rfl, .inr rfl⟩
      · rw [boundaryTx_other hpending hstopping hspent]
        exact ⟨fun _ _ => rfl, rfl, rfl, rfl, rfl, .inl rfl⟩

theorem boundaryTx_events (s : State) (p : Fin 4) : (s.boundaryTx p).events = txBoundaryEvents s p (s.channels p) := by
  have hspent : s.exhausted p = true ↔ (s.stream (txOf p)).limitReached = true ∧ (s.port p).txFifo = [] ∧
      fetchUnderWay s p = false := by
    rw [exhausted_iff, fetchUnderWay_eq, fetching_eq_false_iff]
  simp only [txBoundaryEvents]
  by_cases hpending : (s.stream (txOf p)).state = .pending
  · rw [boundaryTx_pending hpending]
    cases (s.stream (txOf p)).active with
    | none => rfl
    | some ds => exact (if_pos hpending).symm
  · by_cases hstopping : (s.stream (txOf p)).state = .stopping
    · rw [boundaryTx_stopping hstopping]
      cases (s.stream (txOf p)).active with
      | none => rfl
      | some ds =>
        refine Eq.trans ?_ ((if_neg hpending).trans (if_pos hstopping)).symm
        rcases (s.stream (txOf p)).stopping with _ | _ | _ <;> rfl
    · by_cases hrun : (s.stream (txOf p)).state = .running ∧ s.exhausted p = true
      · rw [boundaryTx_spent hrun.1 hrun.2]
        cases (s.stream (txOf p)).active with
        | none => rfl
        | some ds => exact (((if_neg hpending).trans (if_neg hstopping)).trans (if_pos ⟨hrun.1, hspent.1 hrun.2⟩)).symm
      · rw [boundaryTx_other hpending hstopping hrun]
        cases (s.stream (txOf p)).active with
        | none => rfl
        | some ds => exact (((if_neg hpending).trans (if_neg hstopping)).trans (if_neg fun h => hrun ⟨h.1, hspent.2 h.2⟩)).symm

end

end Sys2Proof.Machine

/-! PROOF. The frame boundary: when it comes, and what it does to the port (R86 to R88, R90). -/

namespace Sys2Proof.Machine

open Sys2Proof Sys2Proof.Claims

section

variable {s t u : State} {p : Fin 4} {d : PortDef} {position : Nat}

/-! ### When a boundary comes -/

theorem lastRise_iff_syncsAt {l : List Bool} {i : Nat} : lastRise l = some i ↔ ∃ j, i = j + 1 ∧ SyncsAt l j := by
  rw [lastRise_eq_some]
  constructor
  · rintro ⟨hlen, j, rfl, hsync⟩
    exact ⟨j, rfl, hlen, hsync⟩
  · rintro ⟨j, rfl, hlen, hsync⟩
    exact ⟨hlen, j, rfl, hsync⟩

theorem lastRise_succ_iff {l : List Bool} {k : Nat} : (lastRise l).map (· + 1) = some k ↔ ∃ i, SyncsAt l i ∧ k = i + 2 := by
  rw [Option.map_eq_some_iff]
  constructor
  · rintro ⟨m, hm, rfl⟩
    obtain ⟨j, rfl, hsync⟩ := lastRise_iff_syncsAt.1 hm
    exact ⟨j, hsync, rfl⟩
  · rintro ⟨i, hsync, rfl⟩
    exact ⟨i + 1, lastRise_iff_syncsAt.2 ⟨i, rfl, hsync⟩, rfl⟩

theorem boundaryPosition_running {q : PortEntry} (h : q.sync = .running) (d : PortDef) (fsy : List Bool) :
    q.boundaryPosition d fsy = some 0 := by
  simp only [PortEntry.boundaryPosition, h]

theorem boundaryPosition_unsynced {q : PortEntry} {fsy : List Bool} (h : q.sync = .unsynced) (d : PortDef) (k : Nat) :
    q.boundaryPosition d fsy = some k ↔ k = 0 ∧ ∃ i, SyncsAt fsy i := by
  simp only [PortEntry.boundaryPosition, h, Option.map_eq_some_iff]
  constructor
  · rintro ⟨m, hm, rfl⟩
    obtain ⟨j, -, hsync⟩ := lastRise_iff_syncsAt.1 hm
    exact ⟨rfl, j, hsync⟩
  · rintro ⟨rfl, i, hsync⟩
    exact ⟨i + 1, lastRise_iff_syncsAt.2 ⟨i, rfl, hsync⟩, rfl⟩

theorem boundaryPosition_pulse {q : PortEntry} {fsy : List Bool} (h : q.sync = .synced) (hshape : d.shape = .pulse) (k : Nat) :
    q.boundaryPosition d fsy = some k ↔ ∃ i, SyncsAt fsy i ∧ k = i + 2 := by
  simp only [PortEntry.boundaryPosition, h, hshape, SyncShape.position]
  exact lastRise_succ_iff

theorem boundaryPosition_span {q : PortEntry} {fsy : List Bool} (h : q.sync = .synced) (hshape : d.shape = .span) (k : Nat) :
    q.boundaryPosition d fsy = some k ↔ ∃ i, SyncsAt (fsy.drop 1) i ∧ k = i + 2 := by
  simp only [PortEntry.boundaryPosition, h, hshape]
  cases fsy with
  | nil => exact iff_of_false nofun fun ⟨_, hsync, _⟩ => nomatch hsync.1
  | cons x fsy => exact lastRise_succ_iff

theorem frameWhole_iff : s.frameWhole p = true ↔ FrameWhole s p := by
  simp only [State.frameWhole, FrameWhole, Bool.and_eq_true, Bool.not_eq_true', Bool.and_eq_false_iff, beq_eq_false_iff_ne,
    bne_eq_false_iff_eq, ne_eq, not_and, Decidable.not_not, and_congr_right_iff]
  intro _
  constructor
  · rintro ((h | h) | h) hrun htx
    · exact absurd hrun h
    · exact absurd htx h
    · exact h
  · intro h
    by_cases hrun : (s.stream (txOf p)).state = .running
    · by_cases htx : (s.port p).tx = .taking
      · exact .inr (h hrun htx)
      · exact .inl (.inr htx)
    · exact .inl (.inl hrun)

theorem boundaryCanCome_of_unclassified (h : (s.port p).sync ≠ .synced) (d : PortDef) (position : Nat) :
    s.boundaryCanCome p d position = s.frameWhole p := by
  simp only [State.boundaryCanCome]
  cases hs : (s.port p).sync
  case synced => exact absurd hs h
  all_goals rfl

theorem boundaryCanCome_synced {pos : Nat} (h : (s.port p).sync = .synced) (hpos : (s.port p).framePos = some pos) :
    s.boundaryCanCome p d position = true ↔ pos ≤ position ∧ 16 * (s.port p).wordsDone ≤ position ∧
      (position < 16 * d.channels ∨ (FrameWhole s p ∧ (position ≤ d.frameBits ∨ d.check = .early ∨ d.frameBits < pos))) := by
  simp only [State.boundaryCanCome, h, hpos, Option.getD_some, ← frameWhole_iff]
  by_cases hbehind : position < pos ∨ position < 16 * (s.port p).wordsDone
  · rw [if_pos hbehind]
    exact iff_of_false nofun fun ⟨h1, h2, _⟩ => by omega
  · rw [if_neg hbehind]
    by_cases hearly : position < 16 * d.channels
    · rw [if_pos hearly]
      exact iff_of_true rfl ⟨by omega, by omega, .inl hearly⟩
    · rw [if_neg hearly]
      by_cases hlate : d.frameBits < position ∧ d.check = .exact ∧ pos ≤ d.frameBits
      · rw [if_pos hlate]
        refine iff_of_false nofun fun ⟨_, _, h3⟩ => ?_
        obtain h3 | ⟨-, h3 | h3 | h3⟩ := h3
        · exact hearly h3
        · omega
        · exact nomatch h3.symm.trans hlate.2.1
        · omega
      · rw [if_neg hlate]
        refine ⟨fun hw => ⟨by omega, by omega, .inr ⟨hw, ?_⟩⟩, fun ⟨_, _, h3⟩ => (h3.resolve_left hearly).1⟩
        cases hcheck : d.check with
        | early => exact .inr (.inl rfl)
        | exact =>
          by_cases hbits : d.frameBits < position
          · exact .inr (.inr (Nat.lt_of_not_le fun hle => hlate ⟨hbits, hcheck, hle⟩))
          · exact .inl (Nat.le_of_not_lt hbits)

/-! ### The row -/

theorem frameBoundary_absent {fsy : List Bool} (h : (s.port p).active = none) : exec (.frameBoundary p fsy) s = .next s := by
  simp only [exec, execFrameBoundary, whenLive, h, ite_self]

theorem frameBoundary_live {fsy : List Bool} (hlive : s.live = true) (h : (s.port p).active = some d)
    (hposition : (s.port p).boundaryPosition d fsy = some position) :
    exec (.frameBoundary p fsy) s = .next (s.boundaryAt p d position) := by
  simp only [exec, execFrameBoundary, whenLive, hlive, if_true, h, hposition]

theorem frameBoundary_none {fsy : List Bool} (h : (s.port p).active = some d)
    (hnone : (s.port p).boundaryPosition d fsy = none ∨
      ∃ position, (s.port p).boundaryPosition d fsy = some position ∧ s.boundaryCanCome p d position = false) :
    exec (.frameBoundary p fsy) s = .next s := by
  simp only [exec, execFrameBoundary, whenLive, h]
  obtain hnone | ⟨position, hposition, hcome⟩ := hnone
  · simp only [hnone, ite_self]
  · simp only [hposition, State.boundaryAt, hcome, Bool.false_eq_true, if_false, ite_self]

theorem boundaryAt_unclassified (hcome : s.boundaryCanCome p d position = true) (h : (s.port p).sync ≠ .synced) :
    s.boundaryAt p d position = s.takeBoundary p := by
  simp only [State.boundaryAt, hcome, if_true]
  cases hs : (s.port p).sync
  case synced => exact absurd hs h
  all_goals rfl

theorem boundaryAt_synced (hcome : s.boundaryCanCome p d position = true) (h : (s.port p).sync = .synced) :
    s.boundaryAt p d position = (s.endFrame p d position).takeBoundary p := by
  simp only [State.boundaryAt, hcome, if_true, h]

/-! ### What the sync leaves to the boundary (R104 to R106) -/

theorem frameFault_ports (s : State) (p : Fin 4) (index : Nat) : (s.frameFault p index).ports = s.ports := by
  rw [State.frameFault, occur_eq, occur_eq]

theorem frameFault_arb (s : State) (p : Fin 4) (index : Nat) : (s.frameFault p index).arb = s.arb := by
  rw [State.frameFault, occur_eq, occur_eq]

/-- The repairs of an early sync touch the FIFOs of the port, TAKING or WAITING, and frame admission. -/
theorem earlySyncRepaired_port (s : State) (p : Fin 4) (d : PortDef) : (earlySyncRepaired s p d).port p =
    { s.port p with
      rxFifo := ((earlySyncRepaired s p d).port p).rxFifo, admitted := false
      txFifo := ((earlySyncRepaired s p d).port p).txFifo, tx := ((earlySyncRepaired s p d).port p).tx } := by
  simp only [earlySyncRepaired]
  split <;> rw [setPort_port_same]

theorem earlySyncRepaired_arb (s : State) (p : Fin 4) (d : PortDef) : (earlySyncRepaired s p d).arb = s.arb := by
  simp only [earlySyncRepaired]
  split <;> rfl

/-- What the classification of a sync leaves of the port and of the memory port. -/
structure SyncWork (p : Fin 4) (s t : State) : Prop where
  arb : t.arb = s.arb
  port : t.port p = { s.port p with
    rxFifo := (t.port p).rxFifo, admitted := (t.port p).admitted, txFifo := (t.port p).txFifo, tx := (t.port p).tx }

theorem syncWork_frameFault (s : State) (p : Fin 4) (index : Nat) : SyncWork p s (s.frameFault p index) := by
  have hport : (s.frameFault p index).port p = s.port p := by rw [State.port, State.port, frameFault_ports]
  exact ⟨frameFault_arb .., by rw [hport]⟩

theorem endFrame_early (h : (s.port p).active = some d) (hearly : position < 16 * d.channels) :
    s.endFrame p d position = earlySyncRepaired (s.frameFault p (position / 16)) p d := by
  have hport : (s.frameFault p (position / 16)).port p = s.port p := by rw [State.port, State.port, frameFault_ports]
  rw [State.endFrame, if_pos hearly, repairs_eq _ p d (by rw [hport, h])]

theorem endFrame_short (hslots : 16 * d.channels ≤ position) (hshort : position < d.frameBits) (hcheck : d.check = .exact) :
    s.endFrame p d position = s.frameFault p d.channels := by
  rw [State.endFrame, if_neg (Nat.not_lt.2 hslots), if_pos ⟨hshort, hcheck⟩]

theorem endFrame_clean (hslots : 16 * d.channels ≤ position) (h : d.check = .exact → d.frameBits ≤ position) :
    s.endFrame p d position = s := by
  rw [State.endFrame, if_neg (Nat.not_lt.2 hslots), if_neg fun hx => Nat.not_lt.2 (h hx.2) hx.1]

theorem syncWork_endFrame (h : (s.port p).active = some d) (position : Nat) : SyncWork p s (s.endFrame p d position) := by
  by_cases hearly : position < 16 * d.channels
  · rw [endFrame_early h hearly]
    obtain ⟨harb, hport⟩ := syncWork_frameFault s p (position / 16)
    exact ⟨(earlySyncRepaired_arb ..).trans harb, by rw [earlySyncRepaired_port, hport]⟩
  · rw [State.endFrame, if_neg hearly]
    split
    · exact syncWork_frameFault s p d.channels
    · exact ⟨rfl, rfl⟩

/-! ### The boundary itself -/

/-- The frame has begun, and the transmit stream has had its boundary: the state the receive stream finds (R55, R90). -/
def State.txBoundary (s : State) (p : Fin 4) : State := (s.beginFrame p).boundaryTx p

/-- The state a sync leads to (R88). -/
def SyncState.atBoundary (y : SyncState) : SyncState := if y = .unsynced then .synced else y

theorem beginFrame_port (s : State) (p : Fin 4) : (s.beginFrame p).port p =
    { s.port p with framesSeen := (s.port p).framesSeen + 1, framePos := some 0, slotsStarted := 0, wordsDone := 0
                    sync := (s.port p).sync.atBoundary } := by
  rw [State.beginFrame, setPort_port_same]
  cases h : (s.port p).sync <;> rfl

theorem txWork_txBoundary (s : State) (p : Fin 4) : TxWork p (s.beginFrame p) (s.txBoundary p) := txWork_boundaryTx p _

theorem rxWork_takeBoundary (s : State) (p : Fin 4) : RxWork p (s.txBoundary p) (s.takeBoundary p) := by
  have hadm := RxWork.after (rxWork_admission p _) (rxWork_boundaryRx p (s.txBoundary p))
  exact .after (rxWork_processMarks p _) (.ite (hadm.trans (rxWork_frameEnd p _)) hadm)

theorem takeBoundary_port (s : State) (p : Fin 4) : (s.takeBoundary p).port p =
    { s.port p with
      framesSeen := (s.port p).framesSeen + 1, framePos := some 0, slotsStarted := 0, wordsDone := 0
      sync := (s.port p).sync.atBoundary
      txFifo := ((s.txBoundary p).port p).txFifo
      rxFifo := ((s.takeBoundary p).port p).rxFifo, admitted := ((s.takeBoundary p).port p).admitted } := by
  rw [(rxWork_takeBoundary s p).port, (txWork_txBoundary s p).port, beginFrame_port]

theorem takeBoundary_use (s : State) (p : Fin 4) :
    (s.takeBoundary p).arb.use = s.arb.use ∨ (s.takeBoundary p).arb.use = s.arb.use.afterRun (txOf p) := by
  rw [(rxWork_takeBoundary s p).arb]
  exact (txWork_txBoundary s p).use

/-- Every boundary that comes is work of the port, from the state its sync leaves to it. -/
theorem boundaryAt_begins (h : (s.port p).active = some d) (hcome : s.boundaryCanCome p d position = true) :
    ∃ r, SyncWork p s r ∧ s.boundaryAt p d position = r.takeBoundary p := by
  by_cases hs : (s.port p).sync = .synced
  · exact ⟨_, syncWork_endFrame h position, boundaryAt_synced hcome hs⟩
  · exact ⟨s, ⟨rfl, rfl⟩, boundaryAt_unclassified hcome hs⟩

theorem boundaryAt_port (h : (s.port p).active = some d) (hcome : s.boundaryCanCome p d position = true) :
    (s.boundaryAt p d position).port p = { s.port p with
      framesSeen := (s.port p).framesSeen + 1, framePos := some 0, slotsStarted := 0, wordsDone := 0
      sync := (s.port p).sync.atBoundary
      txFifo := ((s.boundaryAt p d position).port p).txFifo, tx := ((s.boundaryAt p d position).port p).tx
      rxFifo := ((s.boundaryAt p d position).port p).rxFifo
      admitted := ((s.boundaryAt p d position).port p).admitted } := by
  obtain ⟨r, hr, hbound⟩ := boundaryAt_begins h hcome
  rw [hbound, takeBoundary_port, hr.port]

theorem boundaryAt_use (h : (s.port p).active = some d) (hcome : s.boundaryCanCome p d position = true) :
    (s.boundaryAt p d position).arb.use = s.arb.use ∨
      BurstOutlivesRun s.arb.use (s.boundaryAt p d position).arb.use (txOf p) := by
  obtain ⟨r, hr, hbound⟩ := boundaryAt_begins h hcome
  rw [hbound]
  refine (takeBoundary_use r p).imp (fun huse => huse.trans (congrArg _ hr.arb)) fun huse => ?_
  rw [huse, hr.arb]
  exact burstOutlivesRun_afterRun ..

/-! ### The clock and the sync a MASTER drives (R86, R87) -/

theorem drivesClock_of_active (h : (s.port p).active = some d) : s.drivesClock p = (d.role == .master) := by
  simp only [State.drivesClock, h]

theorem clock_undriven (h : s.drivesClock p = false) (bit clk : Nat) : s.fsy p bit = none ∧ s.sck p clk = none := by
  simp only [State.fsy, State.sck, h]
  cases (s.port p).active <;> exact ⟨rfl, rfl⟩

theorem sck_master (h : (s.port p).active = some d) (hrole : d.role = .master) (clk : Nat) :
    s.sck p clk = some (decide (d.divider ≤ clk)) := by
  simp only [State.sck, drivesClock_of_active h, hrole, beq_self_eq_true, h]

theorem fsy_master (h : (s.port p).active = some d) (hrole : d.role = .master) (bit : Nat) :
    s.fsy p bit = some ((s.port p).framePos.elim true fun _ => d.fsyIn bit) := by
  simp only [State.fsy, drivesClock_of_active h, hrole, beq_self_eq_true, h]
  cases (s.port p).framePos <;> rfl

theorem fsy_master_in_frame (h : (s.port p).active = some d) (hrole : d.role = .master) (hpos : (s.port p).framePos ≠ none)
    (bit : Nat) : s.fsy p bit = some (d.fsyIn bit) := by
  obtain ⟨pos, hsome⟩ := Option.ne_none_iff_exists'.1 hpos
  rw [fsy_master h hrole, hsome, Option.elim_some]

theorem fsyIn_pulse (h : d.shape = .pulse) (bit : Nat) : d.fsyIn bit = decide (bit + 1 = d.frameBits) := by
  simp only [PortDef.fsyIn, h]
  rfl

theorem fsyIn_span (h : d.shape = .span) (bit : Nat) : d.fsyIn bit = decide (bit < 16) := by
  simp only [PortDef.fsyIn, h]

end

end Sys2Proof.Machine

namespace Sys2Proof.Proofs

open Sys2Proof Sys2Proof.Machine Sys2Proof.Claims

/-- Settles O29: the receive side and the sync's repairs leave the counts of the frame to the row itself. -/
theorem boundaryBeginsAFrame : Obligations.BoundaryBeginsAFrame := by
  refine ⟨fun s p d fsy position hlive hactive hposition hcome => ?_, fun s p fsy => frameBoundary_absent,
    fun s p d fsy => frameBoundary_none, fun q d fsy => ?_, fun s p d position => ?_, fun s p bit clk => ?_⟩
  · refine ⟨_, frameBoundary_live hlive hactive hposition, (portWork_boundaryAt p s d position).frame,
      (portWork_boundaryAt p s d position).others, ?_, ?_, ?_, ?_, ?_, ?_, boundaryAt_use hactive hcome⟩
    all_goals rw [boundaryAt_port hactive hcome]
    · exact hactive
    · rfl
  · exact ⟨fun h => boundaryPosition_running h d fsy, fun h => boundaryPosition_unsynced h d, boundaryPosition_pulse,
      boundaryPosition_span⟩
  · refine ⟨fun h => ?_, fun pos => boundaryCanCome_synced⟩
    rw [boundaryCanCome_of_unclassified h, frameWhole_iff]
  · refine ⟨fun h => clock_undriven (by simp only [State.drivesClock, h]) bit clk,
      fun d h hrole => clock_undriven (by rw [drivesClock_of_active h, hrole]; rfl) bit clk,
      fun d h hrole => ⟨sck_master h hrole clk, fun hpos => ?_, fun hpos hshape => ?_, fun hpos hshape => ?_⟩⟩
    · rw [fsy_master h hrole, hpos, Option.elim_none]
    · rw [fsy_master_in_frame h hrole hpos, fsyIn_pulse hshape]
    · rw [fsy_master_in_frame h hrole hpos, fsyIn_span hshape]

end Sys2Proof.Proofs

/-! PROOF. The transmit stream at a clean boundary (R55, R57, R64, R68, R78). -/

namespace Sys2Proof.Machine

open Sys2Proof Sys2Proof.Claims

section

variable {s : State} {p : Fin 4} {d : PortDef} {ds : StreamDef} {fsy : List Bool} {position : Nat}

/-! ### A clean boundary -/

theorem cleanBoundary_exec (h : CleanBoundary s p d fsy position) : exec (.frameBoundary p fsy) s = .next (s.takeBoundary p) := by
  obtain ⟨hlive, hactive, hposition, hcome, hclean⟩ := h
  rw [frameBoundary_live hlive hactive hposition]
  by_cases hs : (s.port p).sync = .synced
  · obtain ⟨hslots, hlength⟩ := hclean hs
    rw [boundaryAt_synced hcome hs, endFrame_clean hslots hlength]
  · rw [boundaryAt_unclassified hcome hs]

theorem cleanBoundary_whole (h : CleanBoundary s p d fsy position) : FrameWhole s p := by
  obtain ⟨-, -, -, hcome, hclean⟩ := h
  by_cases hs : (s.port p).sync = .synced
  · have hslots := Nat.not_lt.2 (hclean hs).1
    simp only [State.boundaryCanCome, hs, if_neg hslots] at hcome
    rw [← frameWhole_iff]
    split at hcome
    · exact nomatch hcome
    · split at hcome
      · exact nomatch hcome
      · exact hcome
  · rwa [boundaryCanCome_of_unclassified hs, frameWhole_iff] at hcome

/-! ### The state the receive stream finds -/

theorem txBoundary_rxStream (s : State) (p : Fin 4) : (s.txBoundary p).stream (rxOf p) = s.stream (rxOf p) :=
  (txWork_txBoundary s p).others _ (txOf_ne_rxOf p p).symm

theorem txBoundary_port (s : State) (p : Fin 4) : (s.txBoundary p).port p =
    { s.port p with
      framesSeen := (s.port p).framesSeen + 1, framePos := some 0, slotsStarted := 0, wordsDone := 0
      sync := (s.port p).sync.atBoundary, txFifo := ((s.txBoundary p).port p).txFifo } := by
  rw [(txWork_txBoundary s p).port, beginFrame_port]

theorem txBoundary_time (s : State) (p : Fin 4) : (s.txBoundary p).time = s.time := (txWork_txBoundary s p).time

theorem txBoundary_ring (s : State) (p : Fin 4) (r : RingId) : (s.txBoundary p).ring r = s.ring r := by
  rw [ring_of_rings (txWork_txBoundary s p).rings]
  rfl

theorem txBoundary_detector (s : State) (p q : Fin 4) : (s.txBoundary p).detector q = s.detector q := by
  rw [State.detector, (txWork_txBoundary s p).detectors]
  rfl

theorem txBoundary_channels (h : (s.port p).active = some d) : (s.txBoundary p).channels p = d.channels :=
  channels_of_active (by rw [txBoundary_port, h])

theorem txBoundaryEvents_beginFrame (s : State) (p : Fin 4) (C : Nat) :
    txBoundaryEvents (s.beginFrame p) p C = txBoundaryEvents s p C := by
  simp only [txBoundaryEvents, beginFrame_port]
  rfl

theorem txBoundary_events (h : (s.port p).active = some d) : (s.txBoundary p).events = txBoundaryEvents s p d.channels := by
  rw [State.txBoundary, boundaryTx_events, txBoundaryEvents_beginFrame, channels_of_active (by rw [beginFrame_port, h])]

/-! ### What the boundary leaves of the transmit side -/

/-- The run of the transmit stream is spent: exhausted, and nothing left to send (R64, R92). -/
def State.spent (s : State) (p : Fin 4) : Prop :=
  (s.stream (txOf p)).state = .running ∧ (s.stream (txOf p)).limitReached = true ∧ (s.port p).txFifo = [] ∧
    ∀ b, s.arb.use = .fetch b → b.port ≠ p

theorem spent_iff_beginFrame : s.spent p ↔
    ((s.beginFrame p).stream (txOf p)).state = .running ∧ (s.beginFrame p).exhausted p = true := by
  rw [exhausted_iff, beginFrame_port]
  rfl

/-- The transmit stream's entry, its FIFO and the memory port. -/
structure TxSide where
  entry : StreamEntry
  fifo : List Word
  arb : Arbiter

/-- The transmit side of a port in a state. -/
def State.txSide (s : State) (p : Fin 4) : TxSide := ⟨s.stream (txOf p), (s.port p).txFifo, s.arb⟩

theorem txSide_eq {x : TxSide} (hstream : s.stream (txOf p) = x.entry) (hfifo : (s.port p).txFifo = x.fifo) (harb : s.arb = x.arb) :
    s.txSide p = x := by
  rw [State.txSide, hstream, hfifo, harb]

theorem takeBoundary_txSide (s : State) (p : Fin 4) : (s.takeBoundary p).txSide p = (s.txBoundary p).txSide p := by
  have h := rxWork_takeBoundary s p
  rw [State.txSide, State.txSide, h.txStream, h.arb, h.port]

theorem takeBoundary_tx_pending (h : (s.stream (txOf p)).state = .pending) : (s.takeBoundary p).txSide p =
    ⟨{ s.stream (txOf p) with state := .running }, (s.port p).txFifo, s.arb⟩ := by
  rw [takeBoundary_txSide, State.txBoundary, boundaryTx_pending (s := s.beginFrame p) h]
  refine txSide_eq (setStream_stream_same ..) ?_ rfl
  exact (congrArg PortEntry.txFifo (beginFrame_port s p) :)

theorem takeBoundary_tx_stopping (h : (s.stream (txOf p)).state = .stopping) : (s.takeBoundary p).txSide p =
    ⟨{ (s.stream (txOf p)).ended with discarded := (s.stream (txOf p)).discarded + (s.port p).txFifo.length }, [],
      { s.arb with use := s.arb.use.afterRun (txOf p) }⟩ := by
  rw [takeBoundary_txSide, State.txBoundary, boundaryTx_stopping (s := s.beginFrame p) h, beginFrame_port]
  refine txSide_eq (setStream_stream_same ..) ?_ rfl
  exact (congrArg PortEntry.txFifo (setPort_port_same ..)).trans rfl

theorem takeBoundary_tx_spent (h : s.spent p) : (s.takeBoundary p).txSide p =
    ⟨(s.stream (txOf p)).ended, [], { s.arb with use := s.arb.use.afterRun (txOf p) }⟩ := by
  obtain ⟨hrun, hspent⟩ := spent_iff_beginFrame.1 h
  rw [takeBoundary_txSide, State.txBoundary, boundaryTx_spent hrun hspent]
  refine txSide_eq (setStream_stream_same ..) ?_ rfl
  exact (congrArg PortEntry.txFifo (beginFrame_port s p) :).trans h.2.2.1

theorem takeBoundary_tx_other (hpending : (s.stream (txOf p)).state ≠ .pending) (hstopping : (s.stream (txOf p)).state ≠ .stopping)
    (hspent : ¬ s.spent p) : (s.takeBoundary p).txSide p = s.txSide p := by
  rw [takeBoundary_txSide, State.txBoundary, boundaryTx_other (s := s.beginFrame p) hpending hstopping
    fun h => hspent (spent_iff_beginFrame.2 h), State.txSide, beginFrame_port]
  rfl

/-! ### With nothing to do at the receive stream -/

theorem boundaryRx_other (h : (s.stream (rxOf p)).state ≠ .pending) : s.boundaryRx p = s := by
  simp only [State.boundaryRx]
  split
  · next hp => exact absurd hp h
  all_goals rfl

theorem admission_other (h : (s.stream (rxOf p)).state ≠ .running) : s.admission p = s := by
  rw [State.admission, if_neg h]

/-- A receive stream that is neither PENDING nor RUNNING has the processing of marks at most. -/
theorem takeBoundary_of_rx_other (hpending : (s.stream (rxOf p)).state ≠ .pending) (hrunning : (s.stream (rxOf p)).state ≠ .running) :
    s.takeBoundary p = (s.txBoundary p).processMarks p := by
  have hrx : ((s.txBoundary p).boundaryRx p).admission p = s.txBoundary p := by
    rw [boundaryRx_other (by rwa [txBoundary_rxStream]), admission_other (by rwa [txBoundary_rxStream])]
  have hnot : ¬ (((s.stream (rxOf p)).state == .running) = true) := by rwa [beq_iff_eq]
  have ht : s.takeBoundary p = (if (s.stream (rxOf p)).state == .running then
    (((s.txBoundary p).boundaryRx p).admission p).frameEnd p else ((s.txBoundary p).boundaryRx p).admission p).processMarks p := rfl
  rw [ht, if_neg hnot, hrx]

theorem takeBoundary_of_quiet (hquiet : (s.stream (rxOf p)).state = .absent ∨ (s.stream (rxOf p)).state = .idle ∨
      (s.stream (rxOf p)).state = .armed ∨
      ((s.stream (rxOf p)).state = .stopping ∧ ∀ k g f, (s.port p).rxFifo ≠ .mark k g :: f)) :
    s.takeBoundary p = s.txBoundary p := by
  have hout : ∀ x, (s.stream (rxOf p)).state = x → x ≠ .pending → x ≠ .running → x ≠ .stopping →
      s.takeBoundary p = s.txBoundary p := by
    rintro x rfl hpending hrunning hstopping
    rw [takeBoundary_of_rx_other hpending hrunning,
      processMarks_out_of_run (by rwa [txBoundary_rxStream]) (by rwa [txBoundary_rxStream])]
  obtain h | h | h | ⟨h, hmark⟩ := hquiet
  · exact hout _ h nofun nofun nofun
  · exact hout _ h nofun nofun nofun
  · exact hout _ h nofun nofun nofun
  · rw [takeBoundary_of_rx_other (by rw [h]; nofun) (by rw [h]; nofun), processMarks_of_unmarked]
    rw [txBoundary_port]
    exact hmark

/-! ### The event of the transmit stream -/

theorem txBoundaryEvents_pending (ha : (s.stream (txOf p)).active = some ds) (h : (s.stream (txOf p)).state = .pending) (C : Nat) :
    txBoundaryEvents s p C = raisedIf ds.enables.lifecycle s.events ⟨.streamStarted, BitVec.ofNat 8 (txOf p).val,
      BitVec.ofNat 16 ds.runFrames, BitVec.ofNat 16 (s.ring (.stream (txOf p))).consumer, 0, s.time.counter⟩ := by
  simp only [txBoundaryEvents, ha, if_pos h]

theorem txBoundaryEvents_stopping (ha : (s.stream (txOf p)).active = some ds) (h : (s.stream (txOf p)).state = .stopping) (C : Nat) :
    txBoundaryEvents s p C = raisedIf ds.enables.lifecycle s.events ⟨.streamEnded, BitVec.ofNat 8 (txOf p).val,
      if (s.stream (txOf p)).stopping = some .starved then 4 else 2, wholeFrames (s.stream (txOf p)).sent C,
      BitVec.ofNat 16 (min 65535 ((s.stream (txOf p)).discarded + (s.port p).txFifo.length)), s.time.counter⟩ := by
  have hpending : (s.stream (txOf p)).state ≠ .pending := by rw [h]; nofun
  simp only [txBoundaryEvents, ha, if_neg hpending, if_pos h]

theorem txBoundaryEvents_spent (ha : (s.stream (txOf p)).active = some ds) (h : s.spent p) (C : Nat) :
    txBoundaryEvents s p C = raisedIf ds.enables.lifecycle s.events ⟨.streamEnded, BitVec.ofNat 8 (txOf p).val, 1,
      wholeFrames (s.stream (txOf p)).sent C, BitVec.ofNat 16 (min 65535 (s.stream (txOf p)).discarded), s.time.counter⟩ := by
  obtain ⟨hrun, hlimit, hfifo, hfetch⟩ := h
  have hpending : (s.stream (txOf p)).state ≠ .pending := by rw [hrun]; nofun
  have hstopping : (s.stream (txOf p)).state ≠ .stopping := by rw [hrun]; nofun
  simp only [txBoundaryEvents, ha, if_neg hpending, if_neg hstopping]
  exact if_pos ⟨hrun, hlimit, hfifo, by rw [fetchUnderWay_eq, fetching_eq_false_iff]; exact hfetch⟩

theorem txBoundaryEvents_other (hpending : (s.stream (txOf p)).state ≠ .pending) (hstopping : (s.stream (txOf p)).state ≠ .stopping)
    (hspent : ¬ s.spent p) (C : Nat) : txBoundaryEvents s p C = s.events := by
  simp only [txBoundaryEvents, if_neg hpending, if_neg hstopping]
  have hx : ¬ ((s.stream (txOf p)).state = .running ∧ (s.stream (txOf p)).limitReached = true ∧ (s.port p).txFifo = [] ∧
      fetchUnderWay s p = false) := by
    rw [fetchUnderWay_eq, fetching_eq_false_iff]
    exact hspent
  cases (s.stream (txOf p)).active with
  | none => rfl
  | some ds => exact if_neg hx

end

end Sys2Proof.Machine

namespace Sys2Proof.Proofs

open Sys2Proof Sys2Proof.Machine Sys2Proof.Claims

/-- Settles O30: the receive side leaves the transmit stream, its FIFO and the memory port as its own boundary made them. -/
theorem transmitStreamAtABoundary : Obligations.TransmitStreamAtABoundary := by
  intro s p d fsy position hclean n e fifo y quiet spent ended
  have hactive := hclean.2.1
  have hevents : quiet → (s.takeBoundary p).events = txBoundaryEvents s p d.channels := fun hquiet => by
    rw [takeBoundary_of_quiet hquiet, txBoundary_events hactive]
  have hends : spent ∨ e.state = .stopping → (s.takeBoundary p).arb = { s.arb with use := s.arb.use.afterRun n } := fun h => by
    obtain h | h := h
    · exact congrArg TxSide.arb (takeBoundary_tx_spent h)
    · exact congrArg TxSide.arb (takeBoundary_tx_stopping h)
  refine ⟨_, cleanBoundary_exec hclean, fun h => ?_, fun hspent hstopping => ?_, fun hpending => ?_, fun hstopping => ?_,
    fun hspent => ?_, fun hspent hpending hstopping => ?_⟩
  · rw [hends h]
    exact burstOutlivesRun_afterRun ..
  · by_cases hpending : e.state = .pending
    · exact congrArg TxSide.arb (takeBoundary_tx_pending hpending)
    · exact congrArg TxSide.arb (takeBoundary_tx_other hpending hstopping hspent)
  · have htx := takeBoundary_tx_pending hpending
    exact ⟨congrArg TxSide.entry htx, congrArg TxSide.fifo htx,
      fun ds ha hquiet => (hevents hquiet).trans (txBoundaryEvents_pending ha hpending _)⟩
  · have htx := takeBoundary_tx_stopping hstopping
    refine ⟨congrArg TxSide.entry htx, congrArg TxSide.fifo htx, fun ds why ha hwhy hquiet => ?_⟩
    rw [hevents hquiet, txBoundaryEvents_stopping ha hstopping, hwhy]
    cases why <;> rfl
  · have htx := takeBoundary_tx_spent hspent
    exact ⟨congrArg TxSide.entry htx, fun ds ha hquiet => (hevents hquiet).trans (txBoundaryEvents_spent ha hspent _)⟩
  · have htx := takeBoundary_tx_other hpending hstopping hspent
    exact ⟨congrArg TxSide.entry htx, congrArg TxSide.fifo htx,
      fun hquiet => (hevents hquiet).trans (txBoundaryEvents_other hpending hstopping hspent _)⟩

end Sys2Proof.Proofs

/-! PROOF. A frame offered to the receive stream at a clean boundary (R55, R60, R62, R69, R99, R101). -/

namespace Sys2Proof.Machine

open Sys2Proof Sys2Proof.Claims

section

variable {s t : State} {p : Fin 4} {d : PortDef} {ds : StreamDef} {fsy : List Bool} {position : Nat}

/-! ### The frame offered -/

section Offer

variable {C : Nat} {n : Fin 8} {gating : Bool} {tag : Tag} {x : RxSide}

/-- The gate is open and the limit not reached (R99). -/
def wantsFrame (x : RxSide) : Prop := x.entry.gateOpen = true ∧ x.entry.limitReached = false

/-- C more places fit (R98, R101). -/
def fitsFrame (x : RxSide) (C : Nat) : Prop := (x.fifo.filter RxEntry.isPlace).length + C ≤ 32

/-- Under CLEARED an OVERRUN holds the stream back (R73). -/
def heldByOverrun (x : RxSide) (ds : StreamDef) : Prop := ds.resume = .cleared ∧ x.entry.flag .overrun = true

theorem not_wantsFrame_iff : ¬ wantsFrame x ↔ x.entry.gateOpen = false ∨ x.entry.limitReached = true := by
  rw [wantsFrame, Classical.not_and_iff_not_or_not, Bool.not_eq_true, Bool.not_eq_false]

theorem frameOffered_unwanted (h : ¬ wantsFrame x) : frameOffered ds C n gating tag x = x := if_pos (not_wantsFrame_iff.1 h)

theorem frameOffered_dropped (h : wantsFrame x) (hdrop : ¬ fitsFrame x C ∨ heldByOverrun x ds) : frameOffered ds C n gating tag x =
    { x with
      entry := { x.entry with flags := x.entry.flags.set 1 true
                              counts := x.entry.counts.set 1 (satInc (x.entry.faultCount .overrun)) }
      events := raisedIf (ds.enables.fault && !x.entry.flag .overrun) x.events
        ⟨.fault, BitVec.ofNat 8 n.val, 2, 0, BitVec.ofNat 16 (satInc (x.entry.faultCount .overrun)), tag⟩ } :=
  (if_neg fun hx => not_wantsFrame_iff.2 hx h).trans (if_pos (hdrop.imp_left Nat.lt_of_not_le))

section Taken

variable (h : wantsFrame x) (hroom : fitsFrame x C) (hheld : ¬ heldByOverrun x ds)

include h hroom hheld

theorem frameOffered_below (hlimit : x.entry.limit ≠ some (x.entry.admitted + C)) : frameOffered ds C n gating tag x =
    ⟨{ x.entry with admitted := x.entry.admitted + C }, x.fifo ++ (List.range C).map .reserved, true, x.events⟩ :=
  ((if_neg fun hx => not_wantsFrame_iff.2 hx h).trans (if_neg fun hdrop => hdrop.elim (Nat.not_lt.2 hroom) hheld)).trans
    (if_pos hlimit)

theorem frameOffered_extended (hlimit : x.entry.limit = some (x.entry.admitted + C)) {f : Nat}
    (hextension : x.entry.extension = some f) :
    frameOffered ds C n gating tag x =
      ⟨{ x.entry with admitted := x.entry.admitted + C, extension := none, limit := some (x.entry.admitted + C + f * C) },
        x.fifo ++ (List.range C).map .reserved, true,
        raisedIf ds.enables.lifecycle x.events ⟨.runExtended, BitVec.ofNat 8 n.val, BitVec.ofNat 16 f,
          BitVec.ofNat 16 (min 65535 ((x.entry.admitted + C + f * C - x.entry.deposited) / C)), 0, tag⟩⟩ := by
  refine ((if_neg fun hx => not_wantsFrame_iff.2 hx h).trans (if_neg fun hdrop => hdrop.elim (Nat.not_lt.2 hroom) hheld)).trans
    ((if_neg (not_not_intro hlimit)).trans ?_)
  simp only [hextension]

theorem frameOffered_at_limit (hlimit : x.entry.limit = some (x.entry.admitted + C)) (hextension : x.entry.extension = none) :
    frameOffered ds C n gating tag x =
      if gating then ⟨{ x.entry with admitted := x.entry.admitted + C, limitReached := true, gateOpen := false },
        x.fifo ++ (List.range C).map .reserved ++ [.mark .segEnd tag], true, x.events⟩
      else ⟨{ x.entry with admitted := x.entry.admitted + C, limitReached := true }, x.fifo ++ (List.range C).map .reserved, true,
        x.events⟩ := by
  refine ((if_neg fun hx => not_wantsFrame_iff.2 hx h).trans (if_neg fun hdrop => hdrop.elim (Nat.not_lt.2 hroom) hheld)).trans
    ((if_neg (not_not_intro hlimit)).trans ?_)
  simp only [hextension]

end Taken

/-- What an offered frame does to the receive side is one of four things. -/
theorem frameOffered_cases (P : RxSide → Prop) (hunwanted : ¬ wantsFrame x → P x)
    (hdropped : wantsFrame x → ¬ fitsFrame x C ∨ heldByOverrun x ds → ∀ flags counts u,
      P { x with entry := { x.entry with flags := flags, counts := counts }, events := u })
    (htaken : wantsFrame x → fitsFrame x C → ¬ heldByOverrun x ds → ∀ limit limitReached extension gateOpen more u,
      gateOpen = true ∨ limitReached = true →
      P ⟨{ x.entry with admitted := x.entry.admitted + C, limit := limit, limitReached := limitReached, extension := extension,
                        gateOpen := gateOpen }, x.fifo ++ (List.range C).map .reserved ++ more, true, u⟩) :
    P (frameOffered ds C n gating tag x) := by
  rcases Classical.em (wantsFrame x) with h | h
  · rcases Classical.em (¬ fitsFrame x C ∨ heldByOverrun x ds) with hdrop | hdrop
    · rw [frameOffered_dropped h hdrop]
      exact hdropped h hdrop _ _ _
    · obtain ⟨hroom, hheld⟩ := not_or.1 hdrop
      have hroom := Classical.not_not.1 hroom
      have hplain := fun limit limitReached extension u =>
        List.append_nil (x.fifo ++ (List.range C).map RxEntry.reserved) ▸
          htaken h hroom hheld limit limitReached extension x.entry.gateOpen [] u (.inl h.1)
      by_cases hlimit : x.entry.limit = some (x.entry.admitted + C)
      · cases hextension : x.entry.extension with
        | some f =>
          rw [frameOffered_extended h hroom hheld hlimit hextension]
          exact hplain _ _ _ _
        | none =>
          rw [frameOffered_at_limit h hroom hheld hlimit hextension]
          split
          · exact htaken h hroom hheld _ _ _ _ _ _ (.inr rfl)
          · exact hplain _ _ _ _
      · rw [frameOffered_below h hroom hheld hlimit]
        exact hplain _ _ _ _
  · rw [frameOffered_unwanted h]
    exact hunwanted h

theorem frameOffered_active : (frameOffered ds C n gating tag x).entry.active = x.entry.active :=
  frameOffered_cases (fun y => y.entry.active = x.entry.active) (fun _ => rfl) (fun _ _ _ _ _ => rfl) fun _ _ _ _ _ _ _ _ _ _ => rfl

theorem frameOffered_state : (frameOffered ds C n gating tag x).entry.state = x.entry.state :=
  frameOffered_cases (fun y => y.entry.state = x.entry.state) (fun _ => rfl) (fun _ _ _ _ _ => rfl) fun _ _ _ _ _ _ _ _ _ _ => rfl

end Offer

/-! ### The boundary of a PENDING or RUNNING receive stream -/

theorem depositing_of_use {n : Fin 8} (h : t.arb.use = s.arb.use ∨ t.arb.use = s.arb.use.afterRun n) :
    t.depositing p = s.depositing p := by
  simp only [State.depositing]
  obtain h | h := h <;> rw [h]
  cases s.arb.use with
  | fetch b => by_cases hb : txOf b.port = n <;> simp only [PortUse.afterRun, hb, if_true, if_false]
  | deposit b => by_cases hb : rxOf b.port = n <;> simp only [PortUse.afterRun, hb, if_true, if_false]
  | _ => rfl

theorem txBoundary_depositing (s : State) (p : Fin 4) : (s.txBoundary p).depositing p = s.depositing p :=
  depositing_of_use (txWork_txBoundary s p).use

theorem txBoundary_gating (s : State) (p : Fin 4) : (s.txBoundary p).gating p = s.gating p := by
  simp only [State.gating, txBoundary_detector]

/-- The receive side as its stream starts: a PENDING one is RUNNING, with its event (R55). -/
def State.rxBegun (s : State) (p : Fin 4) (ds : StreamDef) (C : Nat) : RxSide :=
  ⟨{ s.stream (rxOf p) with state := .running }, (s.port p).rxFifo, false,
    raisedIf (ds.enables.lifecycle && (s.stream (rxOf p)).state == .pending) (txBoundaryEvents s p C)
      ⟨.streamStarted, BitVec.ofNat 8 (rxOf p).val, BitVec.ofNat 16 ds.runFrames,
        BitVec.ofNat 16 (s.ring (.stream (rxOf p))).producer, 0, s.time.counter⟩⟩

/-- The receive side with the frame offered to it. -/
def State.rxOffered (s : State) (p : Fin 4) (ds : StreamDef) (C : Nat) : RxSide :=
  frameOffered ds C (rxOf p) (s.gating p) s.time.counter (s.rxBegun p ds C)

theorem startRunning_rx (ha : (s.stream (rxOf p)).active = some ds) (hadmitted : (s.port p).admitted = false) :
    s.startRunning (rxOf p) = withRxSide s p ⟨{ s.stream (rxOf p) with state := .running }, (s.port p).rxFifo, false,
      raisedIf ds.enables.lifecycle s.events ⟨.streamStarted, BitVec.ofNat 8 (rxOf p).val, BitVec.ofNat 16 ds.runFrames,
        BitVec.ofNat 16 (s.ring (.stream (rxOf p))).producer, 0, s.time.counter⟩⟩ := by
  have hq : ({ s.port p with rxFifo := (s.port p).rxFifo, admitted := false } : PortEntry) = s.port p := by rw [← hadmitted]
  have hside : ∀ x : RxSide, x.fifo = (s.port p).rxFifo → x.admitted = false →
      withRxSide s p x = { s.setStream (rxOf p) x.entry with events := x.events } := fun x hf hx => by
    rw [withRxSide, hf, hx, hq]
    exact setPort_self ({ s with events := x.events }.setStream (rxOf p) x.entry) p
  rw [hside _ rfl rfl]
  simp only [State.startRunning, State.raiseStream, ha, isTx_rxOf]
  exact raiseStreamAt_eq _ _ _ _ _ _ _ _ ds (congrArg StreamEntry.active (setStream_stream_same ..))

theorem boundaryRx_begun (h : (s.port p).active = some d) (ha : (s.stream (rxOf p)).active = some ds)
    (hadmitted : (s.port p).admitted = false)
    (hstate : (s.stream (rxOf p)).state = .pending ∨ (s.stream (rxOf p)).state = .running) :
    (s.txBoundary p).boundaryRx p = withRxSide (s.txBoundary p) p (s.rxBegun p ds d.channels) := by
  have hrx := txBoundary_rxStream s p
  have hport := txBoundary_port s p
  have hfifo : ((s.txBoundary p).port p).rxFifo = (s.port p).rxFifo := by rw [hport]
  have hadm : ((s.txBoundary p).port p).admitted = false := by rw [hport, hadmitted]
  obtain hstate | hstate := hstate
  · have hstart : (s.txBoundary p).boundaryRx p = (s.txBoundary p).startRunning (rxOf p) := by
      simp only [State.boundaryRx, hrx, hstate]
    rw [hstart, startRunning_rx (by rw [hrx, ha]) hadm, hrx, hfifo, txBoundary_events h, txBoundary_ring, txBoundary_time,
      State.rxBegun, hstate, beq_self_eq_true, Bool.and_true]
  · rw [boundaryRx_other (by rw [hrx, hstate]; nofun)]
    have hself := withRxSide_self (s.txBoundary p) p
    rw [hrx, hfifo, hadm, txBoundary_events h] at hself
    refine hself.symm.trans ?_
    have hentry : ({ s.stream (rxOf p) with state := .running } : StreamEntry) = s.stream (rxOf p) := by rw [← hstate]
    have hbeq : ((s.stream (rxOf p)).state == .pending) = false := by rw [hstate]; rfl
    rw [State.rxBegun, hentry, hbeq, Bool.and_false]
    rfl

theorem admission_offered (h : (s.port p).active = some d) (ha : (s.stream (rxOf p)).active = some ds)
    (hadmitted : (s.port p).admitted = false)
    (hstate : (s.stream (rxOf p)).state = .pending ∨ (s.stream (rxOf p)).state = .running) :
    ((s.txBoundary p).boundaryRx p).admission p = withRxSide (s.txBoundary p) p (s.rxOffered p ds d.channels) := by
  rw [boundaryRx_begun h ha hadmitted hstate,
    admission_eq _ p ds (by rw [withRxSide_stream]; rfl) (by rw [withRxSide_stream]; exact ha) (by rw [withRxSide_port]; rfl),
    withRxSide_twice, withRxSide_stream, withRxSide_port, withRxSide_channels, txBoundary_channels h, withRxSide_gating,
    txBoundary_gating]
  exact congrArg (fun tag => withRxSide _ p (frameOffered ds _ _ _ tag _)) (congrArg TimeTag.counter (txBoundary_time s p))

theorem takeBoundary_pending (h : (s.port p).active = some d) (ha : (s.stream (rxOf p)).active = some ds)
    (hadmitted : (s.port p).admitted = false) (hstate : (s.stream (rxOf p)).state = .pending) :
    s.takeBoundary p = (withRxSide (s.txBoundary p) p (s.rxOffered p ds d.channels)).processMarks p := by
  rw [← admission_offered h ha hadmitted (.inl hstate)]
  simp only [State.takeBoundary, hstate]
  rfl

theorem takeBoundary_running (h : (s.port p).active = some d) (ha : (s.stream (rxOf p)).active = some ds)
    (hadmitted : (s.port p).admitted = false) (hstate : (s.stream (rxOf p)).state = .running) :
    s.takeBoundary p = ((withRxSide (s.txBoundary p) p (s.rxOffered p ds d.channels)).frameEnd p).processMarks p := by
  rw [← admission_offered h ha hadmitted (.inr hstate)]
  simp only [State.takeBoundary, hstate]
  rfl

/-- A receive side that a boundary has made of `s`, with the marks at its head processed. -/
theorem processMarks_leaves_side {x : RxSide} {u : State} (hentry : u.stream (rxOf p) = x.entry) (hfifo : (u.port p).rxFifo = x.fifo)
    (hadmitted : (u.port p).admitted = x.admitted) (hevents : u.events = x.events) (ha : x.entry.active = some ds)
    (hstate : x.entry.state = .running ∨ x.entry.state = .stopping) (harb : u.arb = (s.txBoundary p).arb)
    (hrings : u.rings = (s.txBoundary p).rings) : LeftWithMarksDone s (u.processMarks p) p ds x := by
  have hdeposit : depositUnderWay u p = depositUnderWay s p := by
    rw [depositUnderWay_eq, depositUnderWay_eq, ← txBoundary_depositing s p, State.depositing, State.depositing, harb]
  have h := processMarks_leaves s u p ds (by rw [hentry, ha]) (by rwa [hentry]) hdeposit
    (by rw [ring_of_rings hrings, txBoundary_ring])
  rwa [hentry, hfifo, hadmitted, hevents] at h

theorem processMarks_leaves_offered {x : RxSide} (ha : x.entry.active = some ds) (hstate : x.entry.state = .running) :
    LeftWithMarksDone s ((withRxSide (s.txBoundary p) p x).processMarks p) p ds x :=
  processMarks_leaves_side (withRxSide_stream ..) (by rw [withRxSide_port]) (by rw [withRxSide_port]) rfl ha (.inl hstate) rfl rfl

theorem setDetector_self (s : State) (p : Fin 4) : s.setDetector p (s.detector p) = s := by
  simp [State.setDetector, State.detector]

/-- Between block ends a frame end moves nothing but the detector (R114). -/
theorem frameEnd_between (h : ∀ g, (s.detector p).active = some g → (s.detector p).frames + 1 ≠ g.blockFrames) :
    ∃ x, s.frameEnd p = s.setDetector p x := by
  simp only [State.frameEnd]
  cases hg : (s.detector p).active with
  | none => exact ⟨_, (setDetector_self s p).symm⟩
  | some g => exact ⟨_, if_neg (h g hg)⟩

theorem rxOffered_active (ha : (s.stream (rxOf p)).active = some ds) (C : Nat) :
    (s.rxOffered p ds C).entry.active = some ds := frameOffered_active.trans ha

theorem rxOffered_state (s : State) (p : Fin 4) (ds : StreamDef) (C : Nat) : (s.rxOffered p ds C).entry.state = .running :=
  frameOffered_state

/-- A boundary that ends no block leaves the frame offered, with the marks processed. -/
theorem takeBoundary_leaves_offered (h : (s.port p).active = some d) (ha : (s.stream (rxOf p)).active = some ds)
    (hadmitted : (s.port p).admitted = false) (hstate : (s.stream (rxOf p)).state = .pending ∨
      ((s.stream (rxOf p)).state = .running ∧
        ∀ g, (s.detector p).active = some g → (s.detector p).frames + 1 ≠ g.blockFrames)) :
    LeftWithMarksDone s (s.takeBoundary p) p ds (s.rxOffered p ds d.channels) := by
  have hactive := rxOffered_active ha d.channels
  have hrun := rxOffered_state s p ds d.channels
  obtain hstate | ⟨hstate, hblock⟩ := hstate
  · rw [takeBoundary_pending h ha hadmitted hstate]
    exact processMarks_leaves_offered hactive hrun
  · have hdetector : (withRxSide (s.txBoundary p) p (s.rxOffered p ds d.channels)).detector p = s.detector p :=
      txBoundary_detector s p p
    obtain ⟨g, hend⟩ := frameEnd_between (s := withRxSide (s.txBoundary p) p (s.rxOffered p ds d.channels)) (by rwa [hdetector])
    rw [takeBoundary_running h ha hadmitted hstate, hend]
    exact processMarks_leaves_side ((setDetector_stream ..).trans (withRxSide_stream ..)) (by rw [setDetector_port, withRxSide_port])
      (by rw [setDetector_port, withRxSide_port]) rfl hactive (.inl hrun) rfl rfl

theorem processMarks_detector (s : State) (p q : Fin 4) : (s.processMarks p).detector q = s.detector q := by
  rw [processMarks_frame]
  rfl

/-! ### A receive stream with no frame to take -/

theorem processHead_admitted (p : Fin 4) (f : List RxEntry) (s : State) :
    ((State.processHead p f s).port p).admitted = (s.port p).admitted := by
  induction f generalizing s with
  | nil => rfl
  | cons x f ih =>
    cases x with
    | mark kind tag => exact (ih _).trans (by rw [processMark_port, setPort_port_same])
    | _ => rfl

theorem processMarks_admitted (s : State) (p : Fin 4) : ((s.processMarks p).port p).admitted = (s.port p).admitted := by
  simp only [State.processMarks]
  split
  · split
    · rfl
    · exact processHead_admitted ..
  · split
    · rfl
    · exact processHead_admitted ..
  · rfl

end

end Sys2Proof.Machine

namespace Sys2Proof.Proofs

open Sys2Proof Sys2Proof.Machine Sys2Proof.Claims

/-- Settles O31: `frameOffered` says what becomes of the frame, and the marks are processed on the receive side it leaves. -/
theorem receiveFrameIsAdmittedOrNot : Obligations.ReceiveFrameIsAdmittedOrNot := by
  refine ⟨fun s p d ds fsy position hclean ha hstate => ?_, fun s p d fsy position hclean hpending hrunning => ?_⟩
  · intro n e fifo C running wanted room held gated places begun
    have hactive := hclean.2.1
    have hadmitted := (cleanBoundary_whole hclean).1
    have hleft := takeBoundary_leaves_offered hactive ha hadmitted hstate
    have hgated : s.gating p = true ↔ gated := by
      simp only [State.gating, gated]
      cases (s.detector p).active <;> simp
    refine ⟨_, cleanBoundary_exec hclean, fun hpending => ?_, fun hwanted => ?_, fun hwanted hdrop => ?_,
      fun hwanted hroom hheld => ?_⟩
    · rw [takeBoundary_pending hactive ha hadmitted hpending, processMarks_detector]
      exact txBoundary_detector s p p
    · rwa [State.rxOffered, frameOffered_unwanted (x := s.rxBegun p ds C) hwanted] at hleft
    · rwa [State.rxOffered, frameOffered_dropped (x := s.rxBegun p ds C) hwanted hdrop] at hleft
    · have hbegun : ∀ y, frameOffered ds C n (s.gating p) s.time.counter (s.rxBegun p ds C) = y →
          LeftWithMarksDone s (s.takeBoundary p) p ds y := by
        rintro y rfl
        exact hleft
      refine ⟨fun hlimit => hbegun _ (frameOffered_below (x := s.rxBegun p ds C) hwanted hroom hheld hlimit),
        fun hlimit hextension hgate => hbegun _ ?_, fun hlimit hextension hgate => hbegun _ ?_,
        fun f hlimit hextension => hbegun _ (frameOffered_extended (x := s.rxBegun p ds C) hwanted hroom hheld hlimit hextension)⟩
      · exact (frameOffered_at_limit (x := s.rxBegun p ds C) hwanted hroom hheld hlimit hextension).trans
          (if_neg fun hg => hgate (hgated.1 hg))
      · exact (frameOffered_at_limit (x := s.rxBegun p ds C) hwanted hroom hheld hlimit hextension).trans
          (if_pos (hgated.2 hgate))
  · intro e u
    have hadmitted := (cleanBoundary_whole hclean).1
    have hactive := hclean.2.1
    rw [cleanBoundary_exec hclean, takeBoundary_of_rx_other hpending hrunning]
    have hport := txBoundary_port s p
    refine ⟨_, rfl, ?_, ?_, fun hstopping => ?_, fun ds hstopping ha => ?_⟩
    · rw [processMarks_detector, txBoundary_detector]
    · rw [processMarks_admitted, hport, hadmitted]
    · rw [processMarks_out_of_run (by rwa [txBoundary_rxStream]) (by rwa [txBoundary_rxStream]), txBoundary_events hactive, hport]
      exact ⟨txBoundary_rxStream s p, rfl, rfl⟩
    · exact processMarks_leaves_side (txBoundary_rxStream s p) (by rw [hport]) (by rw [hport, hadmitted]) (txBoundary_events hactive) ha
        (.inr hstopping) rfl rfl

end Sys2Proof.Proofs

/-! PROOF. The end of a detector block at a clean boundary (R102, R114, R116, R119 to R124). -/

namespace Sys2Proof.Machine

open Sys2Proof Sys2Proof.Claims

section

variable {s w : State} {p : Fin 4} {d : PortDef} {ds : StreamDef} {g : DetectorDef} {x : RxSide} {old new : DetectorState} {tag : Tag}

theorem markCount_eq (f : List RxEntry) : markCount f = (f.filter RxEntry.isMark).length := List.countP_eq_length_filter

theorem confirmsSignal_iff : confirmsSignal old new = true ↔ (old = .quiet ∨ old = .onset) ∧ new = .present := by
  rw [confirmsSignal, Bool.and_eq_true, Bool.or_eq_true, beq_iff_eq, beq_iff_eq, beq_iff_eq]

theorem endsSignal_iff : endsSignal old new = true ↔ (old = .present ∨ old = .fading) ∧ new = .quiet := by
  rw [endsSignal, Bool.and_eq_true, Bool.or_eq_true, beq_iff_eq, beq_iff_eq, beq_iff_eq]

theorem gating_of_active (h : (s.detector p).active = some g) : s.gating p = g.gating := by
  simp only [State.gating, h]

/-! ### The gate on the receive side -/

/-- A confirmed signal opens the gate: with gating on, the gate closed, the limit not reached, and room for the mark (R102, R119). -/
def gateOpens (gating : Bool) (old new : DetectorState) (x : RxSide) : Prop :=
  gating = true ∧ ((old = .quiet ∨ old = .onset) ∧ new = .present) ∧ x.entry.gateOpen = false ∧ x.entry.limitReached = false ∧
    (x.fifo.filter RxEntry.isMark).length ≤ 6

/-- The end of a signal closes the gate, with gating on (R120). -/
def gateCloses (gating : Bool) (old new : DetectorState) (x : RxSide) : Prop :=
  gating = true ∧ ((old = .present ∨ old = .fading) ∧ new = .quiet) ∧ x.entry.gateOpen = true

/-- The gate opened with a START mark. -/
def RxOpened (x : RxSide) (tag : Tag) : RxSide :=
  { x with entry := { x.entry with gateOpen := true }, fifo := x.fifo ++ [.mark .segStart tag] }

/-- The gate closed with an END mark. -/
def RxClosed (x : RxSide) (tag : Tag) : RxSide :=
  { x with entry := { x.entry with gateOpen := false }, fifo := x.fifo ++ [.mark .segEnd tag] }

theorem askStart_opens (hgate : x.entry.gateOpen = false) (hlimit : x.entry.limitReached = false)
    (hroom : (x.fifo.filter RxEntry.isMark).length ≤ 6) :
    (withRxSide w p x).askStart p = withRxSide w p (RxOpened x w.time.counter) := by
  have hcond : ((withRxSide w p x).stream (rxOf p)).gateOpen = false ∧ ((withRxSide w p x).stream (rxOf p)).limitReached = false ∧
      markCount ((withRxSide w p x).port p).rxFifo ≤ startMarkRoom := by
    rw [withRxSide_stream, withRxSide_port, markCount_eq]
    exact ⟨hgate, hlimit, hroom⟩
  simp only [State.askStart, if_pos hcond]
  simp [State.placeMark, RxOpened, withRxSide, State.setStream, State.setPort, State.stream, State.port]

theorem askStart_leaves (h : ¬ (x.entry.gateOpen = false ∧ x.entry.limitReached = false ∧
    (x.fifo.filter RxEntry.isMark).length ≤ 6)) : (withRxSide w p x).askStart p = withRxSide w p x := by
  rw [State.askStart]
  simp only [withRxSide_stream, withRxSide_port, markCount_eq]
  exact if_neg h

theorem closeGate_closes (hgating : w.gating p = true) (hgate : x.entry.gateOpen = true) :
    (withRxSide w p x).closeGate p = withRxSide w p (RxClosed x w.time.counter) := by
  have hcond : ((withRxSide w p x).gating p && ((withRxSide w p x).stream (rxOf p)).gateOpen) = true := by
    rw [withRxSide_gating, withRxSide_stream, hgating, hgate, Bool.and_true]
  rw [State.closeGate, if_pos hcond]
  simp [State.endMark, State.placeMark, RxClosed, withRxSide, State.setStream, State.setPort, State.stream, State.port]

theorem closeGate_leaves (hgate : x.entry.gateOpen = false) : (withRxSide w p x).closeGate p = withRxSide w p x := by
  rw [State.closeGate, withRxSide_stream, hgate, Bool.and_false]
  rfl

theorem moveGate_opens (h : gateOpens (w.gating p) old new x) :
    (withRxSide w p x).moveGate p old new = withRxSide w p (RxOpened x w.time.counter) := by
  obtain ⟨hgating, hconfirmed, hgate, hlimit, hroom⟩ := h
  rw [State.moveGate, withRxSide_gating, if_pos hgating, if_pos (confirmsSignal_iff.2 hconfirmed), askStart_opens hgate hlimit hroom]

theorem moveGate_closes (h : gateCloses (w.gating p) old new x) :
    (withRxSide w p x).moveGate p old new = withRxSide w p (RxClosed x w.time.counter) := by
  obtain ⟨hgating, hgone, hgate⟩ := h
  have hnot : ¬ confirmsSignal old new = true := fun hc => nomatch (confirmsSignal_iff.1 hc).2.symm.trans hgone.2
  rw [State.moveGate, withRxSide_gating, if_pos hgating, if_neg hnot, if_pos (endsSignal_iff.2 hgone), closeGate_closes hgating hgate]

theorem moveGate_leaves (hopens : ¬ gateOpens (w.gating p) old new x) (hcloses : ¬ gateCloses (w.gating p) old new x) :
    (withRxSide w p x).moveGate p old new = withRxSide w p x := by
  rw [State.moveGate, withRxSide_gating]
  by_cases hgating : w.gating p = true
  · rw [if_pos hgating]
    by_cases hconfirmed : confirmsSignal old new = true
    · rw [if_pos hconfirmed]
      exact askStart_leaves fun h => hopens ⟨hgating, confirmsSignal_iff.1 hconfirmed, h⟩
    · rw [if_neg hconfirmed]
      by_cases hgone : endsSignal old new = true
      · rw [if_pos hgone]
        exact closeGate_leaves (Bool.not_eq_true _ ▸ fun h => hcloses ⟨hgating, endsSignal_iff.1 hgone, h⟩)
      · rw [if_neg hgone]
  · rw [if_neg hgating]

/-! ### The block end -/

/-- The detector as a block end leaves it (R114, R115). -/
def DetectorEntry.blockEnded (e : DetectorEntry) (g : DetectorDef) : DetectorEntry :=
  { e with state := (g.next e.state e.count e.peak).1, count := (g.next e.state e.count e.peak).2, frames := 0, peak := 0, last := e.peak }

/-- The receive side with the event of the block end. -/
def State.rxSignalled (s : State) (p : Fin 4) (ds : StreamDef) (g : DetectorDef) (C : Nat) : RxSide :=
  { s.rxOffered p ds C with
    events := signalRaised ds.enables (rxOf p) (s.detector p).state
      (g.next (s.detector p).state (s.detector p).count (s.detector p).peak).1 (s.detector p).peak s.time.counter
      (s.rxOffered p ds C).events }

theorem frameEnd_block {e : DetectorEntry} (he : w.detector p = e) (hg : e.active = some g) (hblock : e.frames + 1 = g.blockFrames)
    (ha : x.entry.active = some ds) : (withRxSide w p x).frameEnd p =
      (withRxSide (w.setDetector p (e.blockEnded g)) p { x with
        events := signalRaised ds.enables (rxOf p) e.state (g.next e.state e.count e.peak).1 e.peak w.time.counter
          x.events }).moveGate p e.state (g.next e.state e.count e.peak).1 := by
  have hdetector : (withRxSide w p x).detector p = e := he
  have hend : (withRxSide w p x).frameEnd p = (withRxSide w p x).evaluateBlock p g := by
    simp only [State.frameEnd, hdetector, hg, if_pos hblock]
  rw [hend]
  simp only [State.evaluateBlock, hdetector]
  have hset : (withRxSide w p x).setDetector p (e.blockEnded g) = withRxSide (w.setDetector p (e.blockEnded g)) p x := rfl
  refine (congrArg (State.moveGate · p _ _) (raiseSignal_eq _ p _ _ _ ds ?_)).trans rfl
  exact (congrArg StreamEntry.active (withRxSide_stream (w.setDetector p (e.blockEnded g)) p x)).trans ha

/-- The state that the gate moves in at a block end: the detector is at its next block. -/
def State.nextBlock (s : State) (p : Fin 4) (g : DetectorDef) : State :=
  (s.txBoundary p).setDetector p ((s.detector p).blockEnded g)

theorem nextBlock_gating (hg : (s.detector p).active = some g) : (s.nextBlock p g).gating p = g.gating :=
  gating_of_active ((congrArg DetectorEntry.active (setDetector_detector_same ..)).trans hg)

theorem nextBlock_time (s : State) (p : Fin 4) (g : DetectorDef) : (s.nextBlock p g).time = s.time := txBoundary_time s p

theorem takeBoundary_block (h : (s.port p).active = some d) (ha : (s.stream (rxOf p)).active = some ds)
    (hadmitted : (s.port p).admitted = false) (hstate : (s.stream (rxOf p)).state = .running)
    (hg : (s.detector p).active = some g) (hblock : (s.detector p).frames + 1 = g.blockFrames) : s.takeBoundary p =
      ((withRxSide (s.nextBlock p g) p (s.rxSignalled p ds g d.channels)).moveGate p (s.detector p).state
        (g.next (s.detector p).state (s.detector p).count (s.detector p).peak).1).processMarks p := by
  rw [takeBoundary_running h ha hadmitted hstate, frameEnd_block (txBoundary_detector s p p) hg hblock (rxOffered_active ha _),
    txBoundary_time]
  rfl

theorem rxBegun_running (hstate : (s.stream (rxOf p)).state = .running) (ds : StreamDef) (C : Nat) :
    s.rxBegun p ds C = ⟨s.stream (rxOf p), (s.port p).rxFifo, false, txBoundaryEvents s p C⟩ := by
  have hentry : ({ s.stream (rxOf p) with state := .running } : StreamEntry) = s.stream (rxOf p) := by rw [← hstate]
  have hbeq : ((s.stream (rxOf p)).state == .pending) = false := by rw [hstate]; rfl
  rw [State.rxBegun, hentry, hbeq, Bool.and_false]
  rfl

section BlockEnd

variable (h : (s.port p).active = some d) (ha : (s.stream (rxOf p)).active = some ds) (hadmitted : (s.port p).admitted = false)
  (hstate : (s.stream (rxOf p)).state = .running) (hg : (s.detector p).active = some g)
  (hblock : (s.detector p).frames + 1 = g.blockFrames)

include h ha hadmitted hstate hg hblock

/-- The gate moved to receive side y, and the marks processed. -/
theorem takeBoundary_block_leaves {y : RxSide}
    (hy : (withRxSide (s.nextBlock p g) p (s.rxSignalled p ds g d.channels)).moveGate p (s.detector p).state
      (g.next (s.detector p).state (s.detector p).count (s.detector p).peak).1 = withRxSide (s.nextBlock p g) p y)
    (hentry : y.entry.active = some ds ∧ y.entry.state = .running) :
    LeftWithMarksDone s (s.takeBoundary p) p ds y ∧ (s.takeBoundary p).detector p = (s.detector p).blockEnded g := by
  rw [takeBoundary_block h ha hadmitted hstate hg hblock, hy, processMarks_detector]
  exact ⟨processMarks_leaves_side (withRxSide_stream ..) (by rw [withRxSide_port]) (by rw [withRxSide_port]) rfl hentry.1
    (.inl hentry.2) rfl rfl, setDetector_detector_same ..⟩

theorem takeBoundary_block_opens (hopens : gateOpens g.gating (s.detector p).state
      (g.next (s.detector p).state (s.detector p).count (s.detector p).peak).1 (s.rxSignalled p ds g d.channels)) :
    LeftWithMarksDone s (s.takeBoundary p) p ds (RxOpened (s.rxSignalled p ds g d.channels) s.time.counter) ∧
      (s.takeBoundary p).detector p = (s.detector p).blockEnded g := by
  refine takeBoundary_block_leaves h ha hadmitted hstate hg hblock ?_ ⟨rxOffered_active ha _, rxOffered_state ..⟩
  rw [← nextBlock_gating hg] at hopens
  rw [moveGate_opens hopens, nextBlock_time]

theorem takeBoundary_block_closes (hcloses : gateCloses g.gating (s.detector p).state
      (g.next (s.detector p).state (s.detector p).count (s.detector p).peak).1 (s.rxSignalled p ds g d.channels)) :
    LeftWithMarksDone s (s.takeBoundary p) p ds (RxClosed (s.rxSignalled p ds g d.channels) s.time.counter) ∧
      (s.takeBoundary p).detector p = (s.detector p).blockEnded g := by
  refine takeBoundary_block_leaves h ha hadmitted hstate hg hblock ?_ ⟨rxOffered_active ha _, rxOffered_state ..⟩
  rw [← nextBlock_gating hg] at hcloses
  rw [moveGate_closes hcloses, nextBlock_time]

theorem takeBoundary_block_gate_stays
    (hopens : ¬ gateOpens g.gating (s.detector p).state
      (g.next (s.detector p).state (s.detector p).count (s.detector p).peak).1 (s.rxSignalled p ds g d.channels))
    (hcloses : ¬ gateCloses g.gating (s.detector p).state
      (g.next (s.detector p).state (s.detector p).count (s.detector p).peak).1 (s.rxSignalled p ds g d.channels)) :
    LeftWithMarksDone s (s.takeBoundary p) p ds (s.rxSignalled p ds g d.channels) ∧
      (s.takeBoundary p).detector p = (s.detector p).blockEnded g := by
  rw [← nextBlock_gating hg] at hopens hcloses
  exact takeBoundary_block_leaves h ha hadmitted hstate hg hblock (moveGate_leaves hopens hcloses)
    ⟨rxOffered_active ha _, rxOffered_state ..⟩

end BlockEnd

theorem frameEnd_counts {e : DetectorEntry} (he : w.detector p = e) (hg : e.active = some g) (hblock : e.frames + 1 ≠ g.blockFrames) :
    w.frameEnd p = w.setDetector p { e with frames := e.frames + 1 } := by
  simp only [State.frameEnd, he, hg, if_neg hblock]

theorem takeBoundary_counts (h : (s.port p).active = some d) (ha : (s.stream (rxOf p)).active = some ds)
    (hadmitted : (s.port p).admitted = false) (hstate : (s.stream (rxOf p)).state = .running) (hg : (s.detector p).active = some g)
    (hblock : (s.detector p).frames + 1 ≠ g.blockFrames) :
    (s.takeBoundary p).detector p = { s.detector p with frames := (s.detector p).frames + 1 } := by
  have hdetector : (withRxSide (s.txBoundary p) p (s.rxOffered p ds d.channels)).detector p = s.detector p := txBoundary_detector s p p
  rw [takeBoundary_running h ha hadmitted hstate, processMarks_detector, frameEnd_counts hdetector hg hblock,
    setDetector_detector_same]

/-! ### The frame offered, and marks in an empty FIFO -/

section Offer

variable {C : Nat} {n : Fin 8} {gating : Bool}

theorem frameOffered_admitted (hx : x.admitted = false) : (frameOffered ds C n gating tag x).admitted = true ↔
    wantsFrame x ∧ fitsFrame x C ∧ ¬ heldByOverrun x ds :=
  frameOffered_cases (fun y => y.admitted = true ↔ wantsFrame x ∧ fitsFrame x C ∧ ¬ heldByOverrun x ds)
    (fun h => iff_of_false (by rw [hx]; nofun) fun hw => h hw.1)
    (fun _ hdrop _ _ _ => iff_of_false (by rw [hx]; nofun) fun hw => hdrop.elim (fun hd => hd hw.2.1) hw.2.2)
    fun hw hroom hheld _ _ _ _ _ _ _ => iff_of_true rfl ⟨hw, hroom, hheld⟩

theorem frameOffered_words (hx : x.admitted = false) : (frameOffered ds C n gating tag x).entry.admitted =
    if (frameOffered ds C n gating tag x).admitted then x.entry.admitted + C else x.entry.admitted :=
  frameOffered_cases (fun y => y.entry.admitted = if y.admitted then x.entry.admitted + C else x.entry.admitted)
    (fun _ => by rw [hx]; rfl) (fun _ _ _ _ _ => by rw [hx]; rfl) fun _ _ _ _ _ _ _ _ _ _ => rfl

/-- A gate that is closed with the limit not reached was closed before, and the frame was not admitted. -/
theorem frameOffered_closed (hgate : (frameOffered ds C n gating tag x).entry.gateOpen = false)
    (hlimit : (frameOffered ds C n gating tag x).entry.limitReached = false) : frameOffered ds C n gating tag x = x := by
  revert hgate hlimit
  refine frameOffered_cases (fun y => y.entry.gateOpen = false → y.entry.limitReached = false → y = x) (fun h _ _ => ?_)
    (fun hw _ _ _ _ hgate _ => nomatch hw.1.symm.trans hgate)
    fun _ _ _ _ _ _ _ _ _ hshut hgate hlimit => hshut.elim (fun h => nomatch h.symm.trans hgate) fun h => nomatch h.symm.trans hlimit
  rfl

/-- A frame not admitted leaves FIFO, gate and segment record. -/
theorem frameOffered_not_admitted (h : (frameOffered ds C n gating tag x).admitted = false) :
    (frameOffered ds C n gating tag x).fifo = x.fifo ∧ (frameOffered ds C n gating tag x).entry.gateOpen = x.entry.gateOpen ∧
      (frameOffered ds C n gating tag x).entry.segWords = x.entry.segWords := by
  revert h
  exact frameOffered_cases (fun y => y.admitted = false → y.fifo = x.fifo ∧ y.entry.gateOpen = x.entry.gateOpen ∧
    y.entry.segWords = x.entry.segWords) (fun _ _ => ⟨rfl, rfl, rfl⟩) (fun _ _ _ _ _ _ => ⟨rfl, rfl, rfl⟩)
    fun _ _ _ _ _ _ _ _ _ _ h => nomatch h

end Offer

/-- With no deposit burst under way, the marks at the head leave at once (R69). -/
theorem leftWithMarksDone_free {t : State} (h : LeftWithMarksDone s t p ds x) (hfree : ∀ b, s.arb.use = .deposit b → b.port ≠ p)
    {m : MarkWork} (hm : marksProcessed ds.enables.segment (rxOf p) (s.ring (.stream (rxOf p))) x.fifo x.entry.segOpen x.entry.segWords
      x.events = m) :
    t.stream (rxOf p) = { x.entry with segOpen := m.segOpen, segWords := m.segWords } ∧ (t.port p).rxFifo = m.fifo ∧
      t.events = m.events := by
  have hdeposit : ¬ depositUnderWay s p = true := by
    rw [depositUnderWay_eq, depositing_eq_false_iff.2 hfree]
    nofun
  rw [LeftWithMarksDone, if_neg hdeposit, hm] at h
  exact ⟨h.1, h.2.1, h.2.2.2⟩

theorem signalRaised_confirmed {en : Enables} {n : Fin 8} {peak : Nat} (h : (old = .quiet ∨ old = .onset) ∧ new = .present)
    (u : EventUnit) : signalRaised en n old new peak tag u =
      raisedIf en.signal u ⟨.signalPresent, BitVec.ofNat 8 n.val, BitVec.ofNat 16 peak, 0, 0, tag⟩ := by
  obtain ⟨rfl | rfl, rfl⟩ := h <;> rfl

end

end Sys2Proof.Machine

namespace Sys2Proof.Proofs

open Sys2Proof Sys2Proof.Machine Sys2Proof.Claims

/-- Settles O33: the frame is offered by the gate as it stood, then the block end signals and moves the gate on the receive side
the frame has left, and the marks are processed. -/
theorem blockEndMovesDetectorAndGate : Obligations.BlockEndMovesDetectorAndGate := by
  intro s p d g ds fsy position hclean hg ha hstate n e v x fifo C tag base offered r confirmed gone opens closes signalled
  have hactive := hclean.2.1
  have hadmitted := (cleanBoundary_whole hclean).1
  have hoffered : s.rxOffered p ds C = offered := by
    rw [State.rxOffered, rxBegun_running hstate, gating_of_active hg]
  have hwords : offered.entry.admitted = if offered.admitted then e.admitted + C else e.admitted := frameOffered_words rfl
  have hentry : offered.entry.active = some ds ∧ offered.entry.state = .running :=
    ⟨frameOffered_active.trans ha, frameOffered_state.trans hstate⟩
  have hcounted : ∀ t y, LeftWithMarksDone s t p ds y → y.admitted = offered.admitted → y.entry.admitted = offered.entry.admitted →
      (t.port p).admitted = offered.admitted ∧
        (t.stream n).admitted = (if (t.port p).admitted then e.admitted + C else e.admitted) := by
    rintro t y ⟨hstream, -, hadm, -⟩ hy hwords'
    refine ⟨hadm.trans hy, ?_⟩
    rw [hadm.trans hy, hstream, ← hwords]
    exact hwords'
  have htaken : offered.admitted = true ↔ e.gateOpen = true ∧ e.limitReached = false ∧
      (fifo.filter RxEntry.isPlace).length + C ≤ 32 ∧ ¬ (ds.resume = .cleared ∧ e.flag .overrun = true) :=
    (frameOffered_admitted rfl).trans and_assoc
  refine ⟨_, cleanBoundary_exec hclean, ?_⟩
  by_cases hblock : x.frames + 1 = g.blockFrames
  · have hsignalled : s.rxSignalled p ds g C = { offered with events := signalled offered.events } := by
      rw [State.rxSignalled, hoffered]
    have hopen := takeBoundary_block_opens hactive ha hadmitted hstate hg hblock
    have hclose := takeBoundary_block_closes hactive ha hadmitted hstate hg hblock
    have hstay := takeBoundary_block_gate_stays hactive ha hadmitted hstate hg hblock
    rw [show s.rxSignalled p ds g d.channels = _ from hsignalled] at hopen hclose hstay
    have hall : (∃ y, LeftWithMarksDone s (s.takeBoundary p) p ds y ∧ y.admitted = offered.admitted ∧
        y.entry.admitted = offered.entry.admitted) ∧ (s.takeBoundary p).detector p = x.blockEnded g := by
      by_cases ho : opens
      · exact ⟨⟨_, (hopen ho).1, rfl, rfl⟩, (hopen ho).2⟩
      · by_cases hc : closes
        · exact ⟨⟨_, (hclose hc).1, rfl, rfl⟩, (hclose hc).2⟩
        · exact ⟨⟨_, (hstay ho hc).1, rfl, rfl⟩, (hstay ho hc).2⟩
    obtain ⟨⟨y, hy, hyadm, hywords⟩, hdetector⟩ := hall
    obtain ⟨hadm, hcount⟩ := hcounted _ y hy hyadm hywords
    refine ⟨by rw [hadm]; exact htaken, hcount, fun h => absurd hblock h, fun _ => ⟨hdetector, fun ho => (hopen ho).1,
      fun hc => (hclose hc).1, fun ho hc => (hstay ho hc).1, fun ho hempty hfree => ?_,
      fun hgone hgating hgate hempty hout hfree => ?_⟩⟩
    · have hshut : offered = ⟨e, [], false, base⟩ := by
        rw [← hempty]
        exact frameOffered_closed ho.2.2.1 ho.2.2.2.1
      obtain ⟨hstream, hfifo, hevents⟩ := leftWithMarksDone_free (hopen ho).1 hfree
        (m := ⟨[], true, 0, raisedIf ds.enables.segment (signalled base)
          ⟨.segmentStart, BitVec.ofNat 8 n.val, BitVec.ofNat 16 v.producer, v.lap.getD 0, 0, tag⟩⟩) (by rw [hshut]; rfl)
      refine ⟨hfifo, by rw [hstream]; rfl, by rw [hstream], by rw [hstream], hevents.trans ?_⟩
      rw [← signalRaised_confirmed ho.2.1]
    · have hnot : offered.admitted = false := hadm.symm.trans hout
      obtain ⟨hfifo', hgate', hwords'⟩ := frameOffered_not_admitted hnot
      have hc : closes := ⟨hgating, hgone, hgate'.trans hgate⟩
      obtain ⟨hstream, hfifo, -⟩ := leftWithMarksDone_free (hclose hc).1 hfree (m := ⟨[], false, offered.entry.segWords,
        raisedIf ds.enables.segment (signalled offered.events) ⟨.segmentEnd, BitVec.ofNat 8 n.val, BitVec.ofNat 16 v.producer,
          v.lap.getD 0, BitVec.ofNat 16 offered.entry.segWords, tag⟩⟩) (by
            simp only [RxClosed, show offered.fifo = [] from hfifo'.trans hempty]
            rfl)
      exact ⟨hfifo, by rw [hstream]; rfl, by rw [hstream], by rw [hstream]; exact hwords'⟩
  · have hleft := takeBoundary_leaves_offered hactive ha hadmitted (.inr ⟨hstate, fun g' hg' => by
      cases hg.symm.trans hg'
      exact hblock⟩)
    rw [show s.rxOffered p ds d.channels = _ from hoffered] at hleft
    obtain ⟨hadm, hcount⟩ := hcounted _ _ hleft rfl rfl
    exact ⟨by rw [hadm]; exact htaken, hcount, fun _ => ⟨takeBoundary_counts hactive ha hadmitted hstate hg hblock, hleft⟩,
      fun h => absurd h hblock⟩

end Sys2Proof.Proofs

/-! PROOF. The early sync: what it reports and repairs, and the boundary it makes (R57, R58, R64, R104 to R106). -/

namespace Sys2Proof.Machine

open Sys2Proof Sys2Proof.Claims

section

variable {s t : State} {p : Fin 4} {d : PortDef} {ds : StreamDef} {fsy : List Bool} {position pos index : Nat} {m : Fin 8}

/-! ### FRAME is reported (R104) -/

/-- A stream that is not ABSENT counts the FRAME fault (R73). -/
def StreamEntry.framed (e : StreamEntry) : StreamEntry := if e.state = .absent then e else e.occurred .frame

theorem framed_eq (e : StreamEntry) : e.framed = { e with flags := e.framed.flags, counts := e.framed.counts } := by
  rw [StreamEntry.framed]
  split <;> rfl

theorem framed_flag_other {f : StreamFault} (h : StreamFault.frame.index.val ≠ f.index.val) (e : StreamEntry) :
    e.framed.flag f = e.flag f := by
  rw [StreamEntry.framed]
  split
  · rfl
  · exact occurred_flag_other h e

theorem framed_faultCount_other {f : StreamFault} (h : StreamFault.frame.index.val ≠ f.index.val) (e : StreamEntry) :
    e.framed.faultCount f = e.faultCount f := by
  rw [StreamEntry.framed]
  split
  · rfl
  · exact occurred_faultCount_other h e

theorem framed_frame {e : StreamEntry} (h : e.state ≠ .absent) :
    e.framed.flag .frame = true ∧ e.framed.faultCount .frame = satInc (e.faultCount .frame) := by
  rw [StreamEntry.framed, if_neg h]
  exact ⟨Vector.getElem_set_self _, Vector.getElem_set_self _⟩

theorem occur_stream_same (s : State) (n : Fin 8) (index : Nat) : (s.occur n .frame index).stream n = (s.stream n).framed := by
  rw [State.stream, occur_streams, StreamEntry.framed]
  split
  · rfl
  · exact Vector.getElem_set_self _

theorem occur_stream_other {n : Fin 8} (h : m ≠ n) (s : State) (f : StreamFault) (index : Nat) :
    (s.occur n f index).stream m = s.stream m := by
  rw [State.stream, occur_streams]
  split
  · rfl
  · exact setStream_stream_other s n m _ h

theorem frameReported_stream (h : m = txOf p ∨ m = rxOf p) (s : State) (index : Nat) :
    (frameReported s p index).stream m = (s.stream m).framed := by
  obtain rfl | rfl := h
  · exact (occur_stream_other (txOf_ne_rxOf p p) _ _ _).trans (occur_stream_same ..)
  · exact (occur_stream_same ..).trans (congrArg _ (occur_stream_other (txOf_ne_rxOf p p).symm _ _ _))

theorem frameReported_stream_other (htx : m ≠ txOf p) (hrx : m ≠ rxOf p) (s : State) (index : Nat) :
    (frameReported s p index).stream m = s.stream m :=
  (occur_stream_other hrx _ _ _).trans (occur_stream_other htx _ _ _)

theorem frameReported_eq (s : State) (p : Fin 4) (index : Nat) : frameReported s p index =
    { s with streams := (frameReported s p index).streams, events := (frameReported s p index).events } := by
  have htx := occur_eq s (txOf p) .frame index
  have hrx := occur_eq (s.occur (txOf p) .frame index) (rxOf p) .frame index
  rw [frameReported]
  generalize s.occur (txOf p) .frame index = u at htx hrx ⊢
  refine hrx.trans ?_
  generalize u.occur (rxOf p) .frame index = v
  rw [htx]

theorem frameReported_port (s : State) (p q : Fin 4) (index : Nat) : (frameReported s p index).port q = s.port q := by
  rw [frameReported_eq]
  rfl

/-! ### The repairs (R105, R106) -/

theorem paddedWith_unmarked {idle : Word} {f : List RxEntry} (h : ∀ k g rest, f ≠ .mark k g :: rest) (k : MarkKind) (g : Tag)
    (rest : List RxEntry) : paddedWith idle f ≠ .mark k g :: rest := by
  cases f with
  | nil => nofun
  | cons x f =>
    cases x with
    | mark k g => exact absurd rfl (h k g f)
    | _ => nofun

theorem paddedWith_places (idle : Word) (f : List RxEntry) :
    ((paddedWith idle f).filter RxEntry.isPlace).length = (f.filter RxEntry.isPlace).length := by
  rw [← placeCount_eq, ← placeCount_eq, ← padReserved_eq_paddedWith, placeCount_padReserved]

/-- The transmit stream is RUNNING and TAKING at a channel other than 0: an early sync cuts its frame (R106). -/
def State.cutFrame (s : State) (p : Fin 4) : Prop :=
  (s.stream (txOf p)).state = .running ∧ (s.port p).tx = .taking ∧ (s.stream (txOf p)).k ≠ 0

/-- The words an early sync discards of a cut frame, as far as the FIFO reaches. -/
def State.cutWords (s : State) (p : Fin 4) (C : Nat) : Nat := min (C - (s.stream (txOf p)).k) (s.port p).txFifo.length

/-- The RX FIFO of the port, an admitted frame padded. -/
def State.paddedRx (s : State) (p : Fin 4) (d : PortDef) : List RxEntry :=
  if (s.port p).admitted then paddedWith d.idle (s.port p).rxFifo else (s.port p).rxFifo

theorem earlySyncRepaired_uncut (h : ¬ s.cutFrame p) :
    earlySyncRepaired s p d = s.setPort p { s.port p with rxFifo := s.paddedRx p d, admitted := false } := if_neg h

theorem earlySyncRepaired_cut (h : s.cutFrame p) : earlySyncRepaired s p d =
    (s.setStream (txOf p) { s.stream (txOf p) with
      taken := (s.stream (txOf p)).taken + s.cutWords p d.channels
      discarded := (s.stream (txOf p)).discarded + s.cutWords p d.channels
      k := if (s.stream (txOf p)).k + s.cutWords p d.channels < d.channels then (s.stream (txOf p)).k + s.cutWords p d.channels else 0
      starvation := if (s.stream (txOf p)).k + s.cutWords p d.channels < d.channels then some 0
        else (s.stream (txOf p)).starvation }).setPort p
    { s.port p with
      rxFifo := s.paddedRx p d, admitted := false, txFifo := (s.port p).txFifo.drop (s.cutWords p d.channels)
      tx := if (s.stream (txOf p)).k + s.cutWords p d.channels < d.channels then .waiting else .taking } := if_pos h

/-- What the repairs leave, and what they make of the port. -/
theorem earlySyncRepaired_keeps (s : State) (p : Fin 4) (d : PortDef) :
    earlySyncRepaired s p d = { s with streams := (earlySyncRepaired s p d).streams, ports := (earlySyncRepaired s p d).ports } ∧
      (∀ m, m ≠ txOf p → (earlySyncRepaired s p d).stream m = s.stream m) ∧
      (earlySyncRepaired s p d).port p = { s.port p with
        rxFifo := s.paddedRx p d, admitted := false
        txFifo := ((earlySyncRepaired s p d).port p).txFifo, tx := ((earlySyncRepaired s p d).port p).tx } := by
  by_cases h : s.cutFrame p
  · rw [earlySyncRepaired_cut h]
    refine ⟨rfl, fun m hm => (setPort_stream ..).trans (setStream_stream_other _ _ _ _ hm), ?_⟩
    rw [setPort_port_same]
  · rw [earlySyncRepaired_uncut h]
    refine ⟨rfl, fun m _ => setPort_stream .., ?_⟩
    rw [setPort_port_same]

theorem earlySyncRepaired_whole (s : State) (p : Fin 4) (d : PortDef) : FrameWhole (earlySyncRepaired s p d) p := by
  by_cases h : s.cutFrame p
  · rw [earlySyncRepaired_cut h, FrameWhole, setPort_port_same, setPort_stream, setStream_stream_same]
    refine ⟨rfl, fun ⟨_, htx, hk⟩ => ?_⟩
    by_cases hmore : (s.stream (txOf p)).k + s.cutWords p d.channels < d.channels
    · rw [if_pos hmore] at htx
      exact nomatch htx
    · rw [if_neg hmore] at hk
      exact hk rfl
  · rw [earlySyncRepaired_uncut h, FrameWhole, setPort_port_same]
    exact ⟨rfl, h⟩

end

end Sys2Proof.Machine

/-! PROOF. The boundary an early sync makes of the frame it has repaired (R57, R58, R64, R104 to R106). -/

namespace Sys2Proof.Machine

open Sys2Proof Sys2Proof.Claims

section

variable {s t : State} {p : Fin 4} {d : PortDef} {ds : StreamDef} {fsy : List Bool} {position pos index : Nat} {m : Fin 8}

/-! ### What every boundary keeps -/

/-- A boundary reports no FRAME of its own. -/
theorem takeBoundary_frame (h : m = txOf p ∨ m = rxOf p) (s : State) :
    ((s.takeBoundary p).stream m).flag .frame = (s.stream m).flag .frame ∧
      ((s.takeBoundary p).stream m).faultCount .frame = (s.stream m).faultCount .frame := by
  obtain rfl | rfl := h
  · have hentry : ∀ x : TxSide, (s.takeBoundary p).txSide p = x → x.entry.flags = (s.stream (txOf p)).flags →
        x.entry.counts = (s.stream (txOf p)).counts →
        ((s.takeBoundary p).stream (txOf p)).flag .frame = (s.stream (txOf p)).flag .frame ∧
          ((s.takeBoundary p).stream (txOf p)).faultCount .frame = (s.stream (txOf p)).faultCount .frame := by
      rintro _ rfl hflags hcounts
      exact ⟨congrArg (·[StreamFault.frame.index.val]) hflags, congrArg (·[StreamFault.frame.index.val]) hcounts⟩
    by_cases hpending : (s.stream (txOf p)).state = .pending
    · exact hentry _ (takeBoundary_tx_pending hpending) rfl rfl
    · by_cases hstopping : (s.stream (txOf p)).state = .stopping
      · exact hentry _ (takeBoundary_tx_stopping hstopping) rfl rfl
      · by_cases hspent : s.spent p
        · exact hentry _ (takeBoundary_tx_spent hspent) rfl rfl
        · exact hentry _ (takeBoundary_tx_other hpending hstopping hspent) rfl rfl
  · obtain ⟨hflag, hcount⟩ := (rxWork_takeBoundary s p).frame
    rw [txBoundary_rxStream] at hflag hcount
    exact ⟨hflag, hcount⟩

theorem frameEnd_undetected (h : (s.detector p).active = none) : s.frameEnd p = s := by
  simp only [State.frameEnd, h]

/-- A RUNNING receive stream that wants no frame, has no detector and no mark to process, is left by a boundary. -/
theorem takeBoundary_unmoved (hrun : (s.stream (rxOf p)).state = .running)
    (hunwanted : (s.stream (rxOf p)).gateOpen = false ∨ (s.stream (rxOf p)).limitReached = true)
    (hdetector : (s.detector p).active = none) (hmark : ∀ k g f, (s.port p).rxFifo ≠ .mark k g :: f) :
    s.takeBoundary p = s.txBoundary p := by
  have hrx := txBoundary_rxStream s p
  have hadm : ((s.txBoundary p).boundaryRx p).admission p = s.txBoundary p := by
    rw [boundaryRx_other (by rw [hrx, hrun]; nofun), State.admission, hrx, if_pos hrun, if_pos hunwanted]
  have hbeq : ((s.stream (rxOf p)).state == .running) = true := by rw [hrun]; rfl
  have ht : s.takeBoundary p = (if (s.stream (rxOf p)).state == .running then
    (((s.txBoundary p).boundaryRx p).admission p).frameEnd p else ((s.txBoundary p).boundaryRx p).admission p).processMarks p := rfl
  rw [ht, if_pos hbeq, hadm, frameEnd_undetected (by rw [txBoundary_detector, hdetector]), processMarks_of_unmarked]
  rw [txBoundary_port]
  exact hmark

theorem marksProcessed_unmarked {enabled : Bool} {n : Fin 8} {v : Ring} {f : List RxEntry} {segOpen : Bool} {words : Nat} {u : EventUnit}
    (h : ∀ k g rest, f ≠ .mark k g :: rest) : marksProcessed enabled n v f segOpen words u = ⟨f, segOpen, words, u⟩ := by
  cases f with
  | nil => rfl
  | cons x f =>
    cases x with
    | mark k g => exact absurd rfl (h k g f)
    | _ => rfl

/-- With no mark at the head there is nothing to process. -/
theorem leftWithMarksDone_unmarked {x : RxSide} (h : LeftWithMarksDone s t p ds x) (hmark : ∀ k g f, x.fifo ≠ .mark k g :: f) :
    t.stream (rxOf p) = x.entry ∧ (t.port p).rxFifo = x.fifo ∧ (t.port p).admitted = x.admitted := by
  rw [LeftWithMarksDone, marksProcessed_unmarked hmark, ite_self] at h
  exact ⟨h.1, h.2.1, h.2.2.1⟩

/-- Without gating a frame that is taken puts its places into the FIFO, and nothing behind them. -/
theorem frameOffered_ungated {x : RxSide} {C : Nat} {n : Fin 8} {tag : Tag} (h : wantsFrame x) (hroom : fitsFrame x C)
    (hheld : ¬ heldByOverrun x ds) : (frameOffered ds C n false tag x).fifo = x.fifo ++ (List.range C).map .reserved ∧
      (frameOffered ds C n false tag x).admitted = true ∧
      (frameOffered ds C n false tag x).entry.admitted = x.entry.admitted + C := by
  by_cases hlimit : x.entry.limit = some (x.entry.admitted + C)
  · cases hextension : x.entry.extension with
    | some f =>
      rw [frameOffered_extended h hroom hheld hlimit hextension]
      exact ⟨rfl, rfl, rfl⟩
    | none =>
      rw [frameOffered_at_limit h hroom hheld hlimit hextension]
      exact ⟨rfl, rfl, rfl⟩
  · rw [frameOffered_below h hroom hheld hlimit]
    exact ⟨rfl, rfl, rfl⟩

theorem places_unmarked {f : List RxEntry} (h : ∀ k g rest, f ≠ .mark k g :: rest) (C : Nat) (k : MarkKind) (g : Tag)
    (rest : List RxEntry) : f ++ (List.range C).map RxEntry.reserved ≠ .mark k g :: rest := by
  cases f with
  | cons x f => exact fun heq => h k g f (congrArg (· :: f) (List.cons.inj heq).1)
  | nil =>
    cases C with
    | zero => nofun
    | succ C => rw [List.nil_append, List.range_succ_eq_map]; nofun

/-! ### The state an early sync hands to the boundary -/

/-- FRAME reported with the channel the sync cuts, and the frame repaired. -/
def State.earlyRepaired (s : State) (p : Fin 4) (d : PortDef) (position : Nat) : State :=
  earlySyncRepaired (frameReported s p (position / 16)) p d

theorem earlyRepaired_eq (s : State) (p : Fin 4) (d : PortDef) (position : Nat) : s.earlyRepaired p d position =
    { s with streams := (s.earlyRepaired p d position).streams, ports := (s.earlyRepaired p d position).ports
             events := (frameReported s p (position / 16)).events } := by
  have hframe := frameReported_eq s p (position / 16)
  refine (earlySyncRepaired_keeps (frameReported s p (position / 16)) p d).1.trans ?_
  rw [State.earlyRepaired]
  generalize frameReported s p (position / 16) = u at hframe ⊢
  generalize earlySyncRepaired u p d = v
  rw [hframe]

theorem earlyRepaired_port (s : State) (p : Fin 4) (d : PortDef) (position : Nat) : (s.earlyRepaired p d position).port p =
    { s.port p with
      rxFifo := s.paddedRx p d, admitted := false
      txFifo := ((s.earlyRepaired p d position).port p).txFifo, tx := ((s.earlyRepaired p d position).port p).tx } := by
  refine (earlySyncRepaired_keeps (frameReported s p (position / 16)) p d).2.2.trans ?_
  rw [State.paddedRx, frameReported_port]
  rfl

theorem earlyRepaired_rxStream (s : State) (p : Fin 4) (d : PortDef) (position : Nat) :
    (s.earlyRepaired p d position).stream (rxOf p) =
      { s.stream (rxOf p) with flags := (s.stream (rxOf p)).framed.flags, counts := (s.stream (rxOf p)).framed.counts } := by
  rw [← framed_eq]
  exact ((earlySyncRepaired_keeps (frameReported s p (position / 16)) p d).2.1 _ (txOf_ne_rxOf p p).symm).trans
    (frameReported_stream (.inr rfl) s _)

theorem frameReported_txStream (s : State) (p : Fin 4) (index : Nat) : (frameReported s p index).stream (txOf p) =
    { s.stream (txOf p) with flags := (s.stream (txOf p)).framed.flags, counts := (s.stream (txOf p)).framed.counts } := by
  rw [← framed_eq, frameReported_stream (.inl rfl)]

theorem frameReported_cutFrame : (frameReported s p index).cutFrame p ↔ s.cutFrame p := by
  rw [State.cutFrame, frameReported_txStream, frameReported_port]
  rfl

theorem frameReported_cutWords (s : State) (p : Fin 4) (index C : Nat) :
    (frameReported s p index).cutWords p C = s.cutWords p C := by
  rw [State.cutWords, frameReported_txStream, frameReported_port]
  rfl

theorem earlyRepaired_uncut (h : ¬ s.cutFrame p) (d : PortDef) (position : Nat) :
    (s.earlyRepaired p d position).stream (txOf p) =
      { s.stream (txOf p) with flags := (s.stream (txOf p)).framed.flags, counts := (s.stream (txOf p)).framed.counts } ∧
    ((s.earlyRepaired p d position).port p).txFifo = (s.port p).txFifo ∧
    ((s.earlyRepaired p d position).port p).tx = (s.port p).tx := by
  rw [State.earlyRepaired, earlySyncRepaired_uncut fun hx => h (frameReported_cutFrame.1 hx), setPort_port_same, setPort_stream,
    frameReported_txStream, frameReported_port]
  exact ⟨rfl, rfl, rfl⟩

theorem earlyRepaired_cut (h : s.cutFrame p) (d : PortDef) (position : Nat) :
    (s.earlyRepaired p d position).stream (txOf p) =
      { s.stream (txOf p) with
        flags := (s.stream (txOf p)).framed.flags, counts := (s.stream (txOf p)).framed.counts
        taken := (s.stream (txOf p)).taken + s.cutWords p d.channels
        discarded := (s.stream (txOf p)).discarded + s.cutWords p d.channels
        k := if (s.stream (txOf p)).k + s.cutWords p d.channels < d.channels then (s.stream (txOf p)).k + s.cutWords p d.channels else 0
        starvation := if (s.stream (txOf p)).k + s.cutWords p d.channels < d.channels then some 0
          else (s.stream (txOf p)).starvation } ∧
    ((s.earlyRepaired p d position).port p).txFifo = (s.port p).txFifo.drop (s.cutWords p d.channels) ∧
    ((s.earlyRepaired p d position).port p).tx =
      if (s.stream (txOf p)).k + s.cutWords p d.channels < d.channels then .waiting else .taking := by
  rw [State.earlyRepaired, earlySyncRepaired_cut (frameReported_cutFrame.2 h), setPort_port_same, setPort_stream,
    setStream_stream_same, frameReported_cutWords, frameReported_txStream, frameReported_port]
  exact ⟨rfl, rfl, rfl⟩

theorem boundaryPosition_of_sync {q q' : PortEntry} (h : q.sync = q'.sync) (d : PortDef) (fsy : List Bool) :
    q.boundaryPosition d fsy = q'.boundaryPosition d fsy := by
  simp only [PortEntry.boundaryPosition, h]

theorem earlyRepaired_frame (h : m = txOf p ∨ m = rxOf p) (hpresent : (s.stream m).state ≠ .absent) (d : PortDef) (position : Nat) :
    ((s.earlyRepaired p d position).stream m).flag .frame = true ∧
      ((s.earlyRepaired p d position).stream m).faultCount .frame = satInc ((s.stream m).faultCount .frame) := by
  obtain rfl | rfl := h
  · by_cases hcut : s.cutFrame p
    · rw [(earlyRepaired_cut hcut d position).1]
      exact framed_frame hpresent
    · rw [(earlyRepaired_uncut hcut d position).1]
      exact framed_frame hpresent
  · rw [earlyRepaired_rxStream]
    exact framed_frame hpresent

/-! ### The row -/

section Row

variable (hlive : s.live = true) (hactive : (s.port p).active = some d) (hsync : (s.port p).sync = .synced)
  (hpos : (s.port p).framePos = some pos) (hbehind : pos ≤ position) (hwords : 16 * (s.port p).wordsDone ≤ position)
  (hearly : position < 16 * d.channels)

include hlive hactive hsync hpos hbehind hwords hearly

theorem earlySync_exec (hposition : (s.port p).boundaryPosition d fsy = some position) :
    exec (.frameBoundary p fsy) s = .next ((s.earlyRepaired p d position).takeBoundary p) := by
  have hcome : s.boundaryCanCome p d position = true := (boundaryCanCome_synced hsync hpos).2 ⟨hbehind, hwords, .inl hearly⟩
  rw [frameBoundary_live hlive hactive hposition, boundaryAt_synced hcome hsync, endFrame_early hactive hearly]
  rfl

/-- An on-time sync makes a clean boundary of the frame repaired. -/
theorem earlyRepaired_clean {onTime : List Bool} (hontime : (s.port p).boundaryPosition d onTime = some d.frameBits)
    (hslots : 16 * d.channels ≤ d.frameBits) :
    CleanBoundary (s.earlyRepaired p d position) p d onTime d.frameBits := by
  have hport := earlyRepaired_port s p d position
  have hstart : (s.earlyRepaired p d position).start = s.start :=
    (congrArg State.start (earlyRepaired_eq s p d position)).trans rfl
  have hsync' : ((s.earlyRepaired p d position).port p).sync = .synced := by rw [hport, hsync]
  refine ⟨?_, by rw [hport, hactive], ?_, ?_, fun _ => ⟨hslots, fun _ => Nat.le_refl _⟩⟩
  · rwa [State.live, hstart]
  · rwa [boundaryPosition_of_sync (q' := s.port p) (by rw [hport])]
  · refine (boundaryCanCome_synced hsync' (pos := pos) (by rw [hport, hpos])).2
      ⟨by omega, ?_, .inr ⟨earlySyncRepaired_whole .., .inl ?_⟩⟩
    · rw [hport]
      exact (by omega : 16 * (s.port p).wordsDone ≤ d.frameBits)
    · exact Nat.le_refl _

end Row

/-! ### The receive side after an early sync -/

section Receive

variable (hadmitted : (s.port p).admitted = true) (hmark : ∀ k g f, (s.port p).rxFifo ≠ .mark k g :: f)

include hadmitted

theorem paddedRx_admitted (d : PortDef) : s.paddedRx p d = paddedWith d.idle (s.port p).rxFifo := by
  rw [State.paddedRx, if_pos hadmitted]

include hmark

theorem earlyRepaired_unmarked (d : PortDef) (position : Nat) (k : MarkKind) (g : Tag) (f : List RxEntry) :
    ((s.earlyRepaired p d position).port p).rxFifo ≠ .mark k g :: f := by
  rw [earlyRepaired_port, paddedRx_admitted hadmitted]
  exact paddedWith_unmarked hmark k g f

theorem earlySync_rx_unwanted (hrun : (s.stream (rxOf p)).state = .running) (hdetector : (s.detector p).active = none)
    (hunwanted : (s.stream (rxOf p)).gateOpen = false ∨ (s.stream (rxOf p)).limitReached = true) (d : PortDef) (position : Nat) :
    (((s.earlyRepaired p d position).takeBoundary p).port p).admitted = false ∧
      (((s.earlyRepaired p d position).takeBoundary p).port p).rxFifo = paddedWith d.idle (s.port p).rxFifo := by
  have hrx := earlyRepaired_rxStream s p d position
  rw [takeBoundary_unmoved (by rw [hrx]; exact hrun) (by rw [hrx]; exact hunwanted)
    (by rw [earlyRepaired_eq]; exact hdetector) (earlyRepaired_unmarked hadmitted hmark d position), txBoundary_port,
    earlyRepaired_port, paddedRx_admitted hadmitted]
  exact ⟨rfl, rfl⟩

theorem earlySync_rx_admitted (hactive : (s.port p).active = some d) (hrun : (s.stream (rxOf p)).state = .running)
    (hdetector : (s.detector p).active = none) (ha : (s.stream (rxOf p)).active = some ds)
    (hgate : (s.stream (rxOf p)).gateOpen = true) (hlimit : (s.stream (rxOf p)).limitReached = false)
    (hroom : ((s.port p).rxFifo.filter RxEntry.isPlace).length + d.channels ≤ 32)
    (hheld : ¬ (ds.resume = .cleared ∧ (s.stream (rxOf p)).flag .overrun = true)) (position : Nat) :
    (((s.earlyRepaired p d position).takeBoundary p).port p).admitted = true ∧
      (((s.earlyRepaired p d position).takeBoundary p).port p).rxFifo =
        paddedWith d.idle (s.port p).rxFifo ++ (List.range d.channels).map RxEntry.reserved ∧
      (((s.earlyRepaired p d position).takeBoundary p).stream (rxOf p)).admitted = (s.stream (rxOf p)).admitted + d.channels := by
  have hrx := earlyRepaired_rxStream s p d position
  have hport := earlyRepaired_port s p d position
  have hfifo : ((s.earlyRepaired p d position).port p).rxFifo = paddedWith d.idle (s.port p).rxFifo := by
    rw [hport, paddedRx_admitted hadmitted]
  have hrun' : ((s.earlyRepaired p d position).stream (rxOf p)).state = .running := by rw [hrx]; exact hrun
  have hnone : ((s.earlyRepaired p d position).detector p).active = none := by rw [earlyRepaired_eq]; exact hdetector
  have hleft := takeBoundary_leaves_offered (by rw [hport, hactive]) (by rw [hrx]; exact ha) (by rw [hport])
    (.inr ⟨hrun', fun g hg => nomatch hnone.symm.trans hg⟩)
  have hgating : (s.earlyRepaired p d position).gating p = false := by simp only [State.gating, hnone]
  rw [State.rxOffered, hgating, rxBegun_running hrun'] at hleft
  obtain ⟨htaken, hadm, hcount⟩ := frameOffered_ungated (ds := ds) (C := d.channels) (n := rxOf p)
    (tag := (s.earlyRepaired p d position).time.counter)
    (x := ⟨(s.earlyRepaired p d position).stream (rxOf p), ((s.earlyRepaired p d position).port p).rxFifo, false,
      txBoundaryEvents (s.earlyRepaired p d position) p d.channels⟩)
    (by rw [hrx]; exact ⟨hgate, hlimit⟩)
    (by rw [fitsFrame, hfifo, paddedWith_places]; exact hroom)
    (by
      have hflag : ((s.earlyRepaired p d position).stream (rxOf p)).flag .overrun = (s.stream (rxOf p)).flag .overrun := by
        rw [hrx]
        exact framed_flag_other (by decide) _
      rw [heldByOverrun, hflag]
      exact hheld)
  obtain ⟨hentry, hfifo', hadm'⟩ := leftWithMarksDone_unmarked hleft (by
    rw [htaken, hfifo]
    exact places_unmarked (paddedWith_unmarked hmark) d.channels)
  refine ⟨hadm'.trans hadm, by rw [hfifo', htaken, hfifo], ?_⟩
  rw [hentry, hcount, hrx]

theorem earlySync_rx_stopping (hstopping : (s.stream (rxOf p)).state = .stopping) (d : PortDef) (position : Nat) :
    (((s.earlyRepaired p d position).takeBoundary p).port p).admitted = false ∧
      (((s.earlyRepaired p d position).takeBoundary p).port p).rxFifo = paddedWith d.idle (s.port p).rxFifo ∧
      (((s.earlyRepaired p d position).takeBoundary p).stream (rxOf p)).state = .stopping := by
  have hrx := earlyRepaired_rxStream s p d position
  rw [takeBoundary_of_quiet (.inr (.inr (.inr ⟨by rw [hrx]; exact hstopping, earlyRepaired_unmarked hadmitted hmark d position⟩))),
    txBoundary_port, txBoundary_rxStream, hrx, earlyRepaired_port, paddedRx_admitted hadmitted]
  exact ⟨rfl, rfl, hstopping⟩

end Receive

end

end Sys2Proof.Machine

/-! PROOF. The transmit stream after an early sync, and the row of the early sync (R57, R64, R104 to R106). -/

namespace Sys2Proof.Machine

open Sys2Proof Sys2Proof.Claims

section

variable {s : State} {p : Fin 4} {d : PortDef} {ds : StreamDef} {position : Nat}

theorem takeBoundary_tx (s : State) (p : Fin 4) : ((s.takeBoundary p).port p).tx = (s.port p).tx :=
  (congrArg PortEntry.tx (takeBoundary_port s p)).trans rfl

theorem of_txSide {x : TxSide} (h : s.txSide p = x) : s.stream (txOf p) = x.entry ∧ (s.port p).txFifo = x.fifo ∧ s.arb = x.arb := by
  cases h
  exact ⟨rfl, rfl, rfl⟩

theorem earlyRepaired_arb (s : State) (p : Fin 4) (d : PortDef) (position : Nat) : (s.earlyRepaired p d position).arb = s.arb :=
  (congrArg State.arb (earlyRepaired_eq s p d position)).trans rfl

/-! ### A frame that is cut -/

/-- The FIFO reaches to the end of the frame cut (R106). -/
theorem cutWords_reaches (hk : (s.stream (txOf p)).k < d.channels)
    (hreach : d.channels - (s.stream (txOf p)).k ≤ (s.port p).txFifo.length) :
    s.cutWords p d.channels = d.channels - (s.stream (txOf p)).k ∧
      ¬ (s.stream (txOf p)).k + s.cutWords p d.channels < d.channels := by
  rw [State.cutWords]
  omega

/-- The FIFO runs out before the end of the frame cut. -/
theorem cutWords_runs_out (hshort : (s.port p).txFifo.length < d.channels - (s.stream (txOf p)).k) :
    s.cutWords p d.channels = (s.port p).txFifo.length ∧
      (s.stream (txOf p)).k + s.cutWords p d.channels < d.channels := by
  rw [State.cutWords]
  omega

section Cut

variable (hcut : s.cutFrame p)

include hcut

/-- The discard takes the last word of the run and no burst brings another: the run is spent (R64). -/
theorem earlyRepaired_spent_iff : (s.earlyRepaired p d position).spent p ↔ (s.stream (txOf p)).limitReached = true ∧
    (s.port p).txFifo.length ≤ d.channels - (s.stream (txOf p)).k ∧ ∀ b, s.arb.use = .fetch b → b.port ≠ p := by
  obtain ⟨hstream, hfifo, -⟩ := earlyRepaired_cut hcut d position
  have hempty : (s.port p).txFifo.drop (s.cutWords p d.channels) = [] ↔
      (s.port p).txFifo.length ≤ d.channels - (s.stream (txOf p)).k := by
    rw [List.drop_eq_nil_iff, State.cutWords]
    omega
  rw [State.spent, hstream, hfifo, hempty, earlyRepaired_arb]
  exact ⟨fun h => h.2, fun h => ⟨hcut.1, h⟩⟩

theorem earlySync_tx_goes_on (h : ¬ ((s.stream (txOf p)).limitReached = true ∧
    (s.port p).txFifo.length ≤ d.channels - (s.stream (txOf p)).k ∧ ∀ b, s.arb.use = .fetch b → b.port ≠ p)) :
    ((s.earlyRepaired p d position).takeBoundary p).txSide p = (s.earlyRepaired p d position).txSide p := by
  have hstate : ((s.earlyRepaired p d position).stream (txOf p)).state = .running := by
    rw [(earlyRepaired_cut hcut d position).1]
    exact hcut.1
  exact takeBoundary_tx_other (by rw [hstate]; nofun) (by rw [hstate]; nofun) fun hspent => h ((earlyRepaired_spent_iff hcut).1 hspent)

theorem earlySync_tx_reaches (hk : (s.stream (txOf p)).k < d.channels)
    (hreach : d.channels - (s.stream (txOf p)).k ≤ (s.port p).txFifo.length)
    (h : ¬ ((s.stream (txOf p)).limitReached = true ∧
      (s.port p).txFifo.length ≤ d.channels - (s.stream (txOf p)).k ∧ ∀ b, s.arb.use = .fetch b → b.port ≠ p)) :
    let t := (s.earlyRepaired p d position).takeBoundary p
    let lacking := d.channels - (s.stream (txOf p)).k
    (t.stream (txOf p)).state = .running ∧ (t.stream (txOf p)).k = 0 ∧ (t.port p).tx = .taking ∧
      (t.port p).txFifo = (s.port p).txFifo.drop lacking ∧
      (t.stream (txOf p)).taken = (s.stream (txOf p)).taken + lacking ∧
      (t.stream (txOf p)).discarded = (s.stream (txOf p)).discarded + lacking ∧
      (t.stream (txOf p)).sent = (s.stream (txOf p)).sent := by
  intro t lacking
  obtain ⟨hgot, hend⟩ := cutWords_reaches hk hreach
  obtain ⟨hstream, hfifo, htx⟩ := earlyRepaired_cut hcut d position
  obtain ⟨hentry, hfifo', -⟩ := of_txSide (earlySync_tx_goes_on (position := position) hcut h)
  rw [hentry, hfifo', takeBoundary_tx, htx, State.txSide, hstream, hfifo, if_neg hend, if_neg hend, if_neg hend, hgot]
  exact ⟨hcut.1, rfl, rfl, rfl, rfl, rfl, rfl⟩

theorem earlySync_tx_runs_out (hshort : (s.port p).txFifo.length < d.channels - (s.stream (txOf p)).k)
    (h : ¬ ((s.stream (txOf p)).limitReached = true ∧
      (s.port p).txFifo.length ≤ d.channels - (s.stream (txOf p)).k ∧ ∀ b, s.arb.use = .fetch b → b.port ≠ p)) :
    let t := (s.earlyRepaired p d position).takeBoundary p
    let held := (s.port p).txFifo.length
    (t.stream (txOf p)).state = .running ∧ (t.stream (txOf p)).k = (s.stream (txOf p)).k + held ∧ (t.port p).tx = .waiting ∧
      (t.port p).txFifo = [] ∧ (t.stream (txOf p)).taken = (s.stream (txOf p)).taken + held ∧
      (t.stream (txOf p)).discarded = (s.stream (txOf p)).discarded + held ∧ (t.stream (txOf p)).starvation = some 0 ∧
      (t.stream (txOf p)).faultCount .underrun = (s.stream (txOf p)).faultCount .underrun := by
  intro t held
  obtain ⟨hgot, hmore⟩ := cutWords_runs_out hshort
  obtain ⟨hstream, hfifo, htx⟩ := earlyRepaired_cut hcut d position
  obtain ⟨hentry, hfifo', -⟩ := of_txSide (earlySync_tx_goes_on (position := position) hcut h)
  rw [hentry, hfifo', takeBoundary_tx, htx, State.txSide, hstream, hfifo, if_pos hmore, if_pos hmore, if_pos hmore, hgot,
    List.drop_length]
  exact ⟨hcut.1, rfl, rfl, rfl, rfl, rfl, rfl, framed_faultCount_other (by decide) _⟩

/-- The discard that takes the run's last word completes the run (R64). -/
theorem earlySync_tx_spent (hactive : (s.port p).active = some d) (hlimit : (s.stream (txOf p)).limitReached = true)
    (hreach : (s.port p).txFifo.length ≤ d.channels - (s.stream (txOf p)).k) (hfetch : ∀ b, s.arb.use = .fetch b → b.port ≠ p) :
    let t := (s.earlyRepaired p d position).takeBoundary p
    let x := s.stream (txOf p)
    let thrown := x.discarded + min (d.channels - x.k) (s.port p).txFifo.length
    (t.stream (txOf p)).state = .idle ∧ (t.stream (txOf p)).starvation = none ∧ (t.port p).txFifo = [] ∧
      (t.stream (txOf p)).taken = x.taken + (s.port p).txFifo.length ∧ (t.stream (txOf p)).discarded = thrown ∧
      (t.stream (txOf p)).sent = x.sent ∧
      ∀ ds, x.active = some ds → (s.stream (rxOf p)).state = .absent ∨ (s.stream (rxOf p)).state = .idle ∨
          (s.stream (rxOf p)).state = .armed →
        t.events = raisedIf ds.enables.lifecycle (frameReported s p (position / 16)).events
          ⟨.streamEnded, BitVec.ofNat 8 (txOf p).val, 1, wholeFrames x.sent d.channels, BitVec.ofNat 16 (min 65535 thrown),
            s.time.counter⟩ := by
  intro t x thrown
  have hspent := (earlyRepaired_spent_iff (position := position) hcut).2 ⟨hlimit, hreach, hfetch⟩
  have hstream := (earlyRepaired_cut hcut d position).1
  have hgot : s.cutWords p d.channels = (s.port p).txFifo.length := Nat.min_eq_right hreach
  obtain ⟨hentry, hfifo, -⟩ := of_txSide (takeBoundary_tx_spent hspent)
  rw [hstream] at hentry
  refine ⟨by rw [hentry]; rfl, by rw [hentry]; rfl, hfifo, by rw [hentry, hgot]; rfl, by rw [hentry]; rfl, by rw [hentry]; rfl,
    fun ds ha hquiet => ?_⟩
  have hrx : ((s.earlyRepaired p d position).stream (rxOf p)).state = (s.stream (rxOf p)).state := by rw [earlyRepaired_rxStream]
  have hactive' : ((s.earlyRepaired p d position).port p).active = some d := by rw [earlyRepaired_port, hactive]
  have hquiet' : t = (s.earlyRepaired p d position).txBoundary p :=
    takeBoundary_of_quiet (by rw [hrx]; exact hquiet.imp_right (Or.imp_right Or.inl))
  have hevents : (s.earlyRepaired p d position).events = (frameReported s p (position / 16)).events :=
    (congrArg State.events (earlyRepaired_eq s p d position)).trans rfl
  have htime : (s.earlyRepaired p d position).time = s.time := (congrArg State.time (earlyRepaired_eq s p d position)).trans rfl
  rw [hquiet', txBoundary_events hactive', txBoundaryEvents_spent (by rw [hstream]; exact ha) hspent, hevents, htime, hstream]
  rfl

end Cut

/-! ### A frame that is not cut -/

theorem earlySync_tx_stopping (h : (s.stream (txOf p)).state = .stopping) (d : PortDef) (position : Nat) :
    (((s.earlyRepaired p d position).takeBoundary p).stream (txOf p)).state = .idle ∧
      (((s.earlyRepaired p d position).takeBoundary p).port p).txFifo = [] ∧
      (((s.earlyRepaired p d position).takeBoundary p).stream (txOf p)).taken = (s.stream (txOf p)).taken ∧
      (((s.earlyRepaired p d position).takeBoundary p).stream (txOf p)).discarded =
        (s.stream (txOf p)).discarded + (s.port p).txFifo.length := by
  have huncut : ¬ s.cutFrame p := fun hcut => nomatch h.symm.trans hcut.1
  obtain ⟨hstream, hfifo, -⟩ := earlyRepaired_uncut huncut d position
  have htx := takeBoundary_tx_stopping (s := s.earlyRepaired p d position) (p := p) (by rw [hstream]; exact h)
  rw [hstream, hfifo] at htx
  obtain ⟨hentry, hempty, -⟩ := of_txSide htx
  rw [hentry, hempty]
  exact ⟨rfl, rfl, rfl, rfl⟩

theorem earlySync_tx_waiting (hrun : (s.stream (txOf p)).state = .running) (hwaiting : (s.port p).tx = .waiting)
    (hlimit : (s.stream (txOf p)).limitReached = false) (d : PortDef) (position : Nat) :
    (((s.earlyRepaired p d position).takeBoundary p).stream (txOf p)).k = (s.stream (txOf p)).k ∧
      (((s.earlyRepaired p d position).takeBoundary p).port p).tx = .waiting ∧
      (((s.earlyRepaired p d position).takeBoundary p).port p).txFifo = (s.port p).txFifo := by
  have huncut : ¬ s.cutFrame p := fun hcut => nomatch hwaiting.symm.trans hcut.2.1
  obtain ⟨hstream, hfifo, htx⟩ := earlyRepaired_uncut huncut d position
  have hstate : ((s.earlyRepaired p d position).stream (txOf p)).state = .running := by rw [hstream]; exact hrun
  have hspent : ¬ (s.earlyRepaired p d position).spent p := fun h => by
    have hreached := h.2.1
    rw [hstream] at hreached
    exact nomatch hlimit.symm.trans hreached
  obtain ⟨hentry, hfifo', -⟩ := of_txSide (takeBoundary_tx_other (by rw [hstate]; nofun) (by rw [hstate]; nofun) hspent)
  rw [hentry, hfifo', takeBoundary_tx, htx, State.txSide, hstream, hfifo]
  exact ⟨rfl, hwaiting, rfl⟩

end

end Sys2Proof.Machine

namespace Sys2Proof.Proofs

open Sys2Proof Sys2Proof.Machine Sys2Proof.Claims

/-- Settles O34: the boundary is the one of the state that the report and the repairs leave. -/
theorem earlySyncPadsAndRealigns : Obligations.EarlySyncPadsAndRealigns := by
  intro s p d fsy pos position hlive hactive hsync hpos hposition hbehind hwords hearly q x y C lacking cut noFetch taking thrown padded
    noDetector noMark
  have hexec := earlySync_exec hlive hactive hsync hpos hbehind hwords hearly hposition
  have hcome : s.boundaryCanCome p d position = true := (boundaryCanCome_synced hsync hpos).2 ⟨hbehind, hwords, .inl hearly⟩
  have hat : s.boundaryAt p d position = (s.earlyRepaired p d position).takeBoundary p :=
    Host.Outcome.next.inj ((frameBoundary_live hlive hactive hposition).symm.trans hexec)
  have hwork := portWork_boundaryAt p s d position
  have hport := boundaryAt_port hactive hcome
  rw [hat] at hwork hport
  refine ⟨_, hexec, hwork.frame, hwork.others, by rw [hport], by rw [hport], fun m hm hpresent => ?_, fun onTime hontime hslots => ?_,
    fun hadmitted hrun hmark hdetector => ⟨fun hunwanted => earlySync_rx_unwanted hadmitted hmark hrun hdetector hunwanted d position,
      fun ds ha hgate hlimit hroom hheld => earlySync_rx_admitted hadmitted hmark hactive hrun hdetector ha hgate hlimit hroom hheld _⟩,
    fun hadmitted hstopping hmark => earlySync_rx_stopping hadmitted hmark hstopping d position,
    fun ⟨hrun, ⟨htx, hk, hkC⟩, hgoes⟩ hreach => earlySync_tx_reaches ⟨hrun, htx, hk⟩ hkC hreach hgoes,
    fun ⟨hrun, ⟨htx, hk, _⟩, hgoes⟩ hshort => earlySync_tx_runs_out ⟨hrun, htx, hk⟩ hshort hgoes,
    fun hrun ⟨htx, hk, _⟩ hlimit hreach hfetch => earlySync_tx_spent ⟨hrun, htx, hk⟩ hactive hlimit hreach hfetch,
    fun hstopping => earlySync_tx_stopping hstopping d position,
    fun hrun hwaiting hlimit => earlySync_tx_waiting hrun hwaiting hlimit d position⟩
  · obtain ⟨hflag, hcount⟩ := takeBoundary_frame hm (s.earlyRepaired p d position)
    obtain ⟨hflag', hcount'⟩ := earlyRepaired_frame hm hpresent d position
    exact ⟨hflag.trans hflag', hcount.trans hcount'⟩
  · have hclean := earlyRepaired_clean hlive hactive hsync hpos hbehind hwords hearly hontime hslots
    exact ⟨hclean, cleanBoundary_exec hclean⟩

end Sys2Proof.Proofs

/-! PROOF. What a sync and a late frame report (R104, R107). -/

namespace Sys2Proof.Machine

open Sys2Proof Sys2Proof.Claims

section

variable {s : State} {p : Fin 4} {d : PortDef} {ds : StreamDef} {fsy onTime : List Bool} {position pos index : Nat} {m : Fin 8}

/-! ### The report -/

theorem frameReported_whole (h : FrameWhole s p) (index : Nat) : FrameWhole (frameReported s p index) p := by
  rw [FrameWhole, frameReported_port, frameReported_txStream]
  exact h

theorem frameReported_live (s : State) (p : Fin 4) (index : Nat) : (frameReported s p index).live = s.live := by
  have hstart : (frameReported s p index).start = s.start := (congrArg State.start (frameReported_eq s p index)).trans rfl
  rw [State.live, State.live, hstart]

theorem frameReported_counts (h : m = txOf p ∨ m = rxOf p) (hpresent : (s.stream m).state ≠ .absent) (index : Nat) :
    ((frameReported s p index).stream m).flag .frame = true ∧
      ((frameReported s p index).stream m).faultCount .frame = satInc ((s.stream m).faultCount .frame) := by
  rw [frameReported_stream h]
  exact framed_frame hpresent

theorem framed_absent {e : StreamEntry} (h : e.state = .absent) : e.framed = e := if_pos h

theorem occur_frame_events_absent {n : Fin 8} (h : (s.stream n).state = .absent) (index : Nat) :
    (s.occur n .frame index).events = s.events := by
  rw [occur_events, if_pos (.inl h)]

theorem occur_frame_events {n : Fin 8} (ha : (s.stream n).active = some ds) (hpresent : (s.stream n).state ≠ .absent) (index : Nat) :
    (s.occur n .frame index).events = raisedIf (ds.enables.fault && !(s.stream n).flag .frame) s.events
      ⟨.fault, BitVec.ofNat 8 n.val, 3, BitVec.ofNat 16 index, BitVec.ofNat 16 (satInc ((s.stream n).faultCount .frame)),
        s.time.counter⟩ := by
  rw [occur_events]
  cases hflag : (s.stream n).flag .frame with
  | true => rw [if_pos (.inr rfl), Bool.not_true, Bool.and_false]; rfl
  | false =>
    rw [if_neg fun h => h.elim hpresent nofun, ha, Bool.not_false, Bool.and_true]
    rfl

/-- With the receive stream ABSENT the transmit stream alone reports. -/
theorem frameReported_events (ha : (s.stream (txOf p)).active = some ds) (hpresent : (s.stream (txOf p)).state ≠ .absent)
    (habsent : (s.stream (rxOf p)).state = .absent) (index : Nat) : (frameReported s p index).events =
      raisedIf (ds.enables.fault && !(s.stream (txOf p)).flag .frame) s.events
        ⟨.fault, BitVec.ofNat 8 (txOf p).val, 3, BitVec.ofNat 16 index,
          BitVec.ofNat 16 (satInc ((s.stream (txOf p)).faultCount .frame)), s.time.counter⟩ := by
  rw [frameReported, occur_frame_events_absent (by rw [occur_stream_other (txOf_ne_rxOf p p).symm, habsent]),
    occur_frame_events ha hpresent]

/-- With the receive stream ABSENT a report leaves every other stream. -/
theorem frameReported_others (habsent : (s.stream (rxOf p)).state = .absent) (hm : m ≠ txOf p) (index : Nat) :
    (frameReported s p index).stream m = s.stream m := by
  by_cases hrx : m = rxOf p
  · rw [frameReported_stream (.inr hrx), framed_absent (by rw [hrx, habsent])]
  · exact frameReported_stream_other hm hrx s index

/-! ### A sync that comes on a whole frame -/

section Sync

variable (hlive : s.live = true) (hactive : (s.port p).active = some d) (hsync : (s.port p).sync = .synced)
  (hpos : (s.port p).framePos = some pos) (hbehind : pos ≤ position) (hwords : 16 * (s.port p).wordsDone ≤ position)

include hsync hpos hbehind hwords

theorem canCome_of_whole (hwhole : FrameWhole s p) (hlength : position ≤ d.frameBits) : s.boundaryCanCome p d position = true :=
  (boundaryCanCome_synced hsync hpos).2 ⟨hbehind, hwords, .inr ⟨hwhole, .inl hlength⟩⟩

include hlive hactive

theorem clean_of_whole (hwhole : FrameWhole s p) (hposition : (s.port p).boundaryPosition d fsy = some position)
    (hslots : 16 * d.channels ≤ position) (hlength : position ≤ d.frameBits)
    (hshort : d.check = .exact → d.frameBits ≤ position) : CleanBoundary s p d fsy position :=
  ⟨hlive, hactive, hposition, canCome_of_whole hsync hpos hbehind hwords hwhole hlength, fun _ => ⟨hslots, hshort⟩⟩

/-- A short sync under EXACT is the boundary of the frame reported. -/
theorem shortSync_exec (hwhole : FrameWhole s p) (hposition : (s.port p).boundaryPosition d fsy = some position)
    (hslots : 16 * d.channels ≤ position) (hshort : position < d.frameBits) (hcheck : d.check = .exact) :
    exec (.frameBoundary p fsy) s = .next ((frameReported s p d.channels).takeBoundary p) := by
  have hcome := canCome_of_whole hsync hpos hbehind hwords hwhole (Nat.le_of_lt hshort)
  rw [frameBoundary_live hlive hactive hposition, boundaryAt_synced hcome hsync, endFrame_short hslots hshort hcheck]
  rfl

end Sync

/-! ### The late frame (R107) -/

/-- The port with bit L passed. -/
def State.bitPassed (s : State) (p : Fin 4) (d : PortDef) : State :=
  s.setPort p { s.port p with framePos := some (d.frameBits + 1) }

section Late

variable (hlive : s.live = true) (hactive : (s.port p).active = some d) (hsync : (s.port p).sync = .synced)
  (hpos : (s.port p).framePos = some pos) (hwhole : FrameWhole s p)

include hlive hactive hpos

theorem lateFrame_passed (hlate : d.frameBits < pos) : exec (.lateFrame p) s = .next s := by
  have hnot : ¬ ((s.port p).sync = .synced ∧ pos ≤ d.frameBits ∧ s.frameWhole p = true) := fun h => by omega
  simp only [exec, execLateFrame, whenLive, hlive, if_true, hactive, hpos, if_neg hnot]

include hsync hwhole

theorem lateFrame_exact (hdue : pos ≤ d.frameBits) (hcheck : d.check = .exact) :
    exec (.lateFrame p) s = .next (frameReported (s.bitPassed p d) p d.channels) := by
  have hcond : (s.port p).sync = .synced ∧ pos ≤ d.frameBits ∧ s.frameWhole p = true := ⟨hsync, hdue, frameWhole_iff.2 hwhole⟩
  simp only [exec, execLateFrame, whenLive, hlive, if_true, hactive, hpos, if_pos hcond, if_pos hcheck, State.bitPassed,
    State.frameFault, frameReported]

theorem lateFrame_early (hdue : pos ≤ d.frameBits) (hcheck : d.check = .early) :
    exec (.lateFrame p) s = .next (s.bitPassed p d) := by
  have hcond : (s.port p).sync = .synced ∧ pos ≤ d.frameBits ∧ s.frameWhole p = true := ⟨hsync, hdue, frameWhole_iff.2 hwhole⟩
  have hnot : ¬ d.check = .exact := by rw [hcheck]; nofun
  simp only [exec, execLateFrame, whenLive, hlive, if_true, hactive, hpos, if_pos hcond, if_neg hnot, State.bitPassed]

end Late

/-! ### The boundary with both streams at rest -/

/-- With the transmit stream IDLE and the receive stream ABSENT a boundary moves the port alone. -/
theorem takeBoundary_at_rest (hactive : (s.port p).active = some d) (hidle : (s.stream (txOf p)).state = .idle)
    (habsent : (s.stream (rxOf p)).state = .absent) :
    (s.takeBoundary p).stream (txOf p) = s.stream (txOf p) ∧ (s.takeBoundary p).events = s.events := by
  have hpending : (s.stream (txOf p)).state ≠ .pending := by rw [hidle]; nofun
  have hstopping : (s.stream (txOf p)).state ≠ .stopping := by rw [hidle]; nofun
  have hspent : ¬ s.spent p := fun h => nomatch hidle.symm.trans h.1
  refine ⟨(of_txSide (takeBoundary_tx_other hpending hstopping hspent)).1, ?_⟩
  rw [takeBoundary_of_quiet (.inl habsent), txBoundary_events hactive, txBoundaryEvents_other hpending hstopping hspent]

theorem frameReported_at_rest (hactive : (s.port p).active = some d) (hidle : (s.stream (txOf p)).state = .idle)
    (habsent : (s.stream (rxOf p)).state = .absent) (index : Nat) :
    ((frameReported s p index).takeBoundary p).stream (txOf p) = (s.stream (txOf p)).framed ∧
      ((frameReported s p index).takeBoundary p).events = (frameReported s p index).events := by
  obtain ⟨hstream, hevents⟩ := takeBoundary_at_rest (s := frameReported s p index) (by rw [frameReported_port, hactive])
    (by rw [frameReported_txStream]; exact hidle)
    (by rw [frameReported_others habsent (txOf_ne_rxOf p p).symm, habsent])
  exact ⟨hstream.trans (frameReported_stream (.inl rfl) s index), hevents⟩

theorem earlyRepaired_at_rest (hactive : (s.port p).active = some d) (hidle : (s.stream (txOf p)).state = .idle)
    (habsent : (s.stream (rxOf p)).state = .absent) (position : Nat) :
    ((s.earlyRepaired p d position).takeBoundary p).stream (txOf p) = (s.stream (txOf p)).framed ∧
      ((s.earlyRepaired p d position).takeBoundary p).events = (frameReported s p (position / 16)).events := by
  have huncut : ¬ s.cutFrame p := fun hcut => nomatch hidle.symm.trans hcut.1
  have hstream := (earlyRepaired_uncut huncut d position).1
  obtain ⟨hstream', hevents⟩ := takeBoundary_at_rest (s := s.earlyRepaired p d position) (by rw [earlyRepaired_port, hactive])
    (by rw [hstream]; exact hidle) (by rw [earlyRepaired_rxStream]; exact habsent)
  exact ⟨hstream'.trans (hstream.trans (framed_eq _).symm),
    hevents.trans ((congrArg State.events (earlyRepaired_eq s p d position)).trans rfl)⟩

end

end Sys2Proof.Machine

namespace Sys2Proof.Proofs

open Sys2Proof Sys2Proof.Machine Sys2Proof.Claims

/-- Settles O35: a report changes what a stream counts and nothing the boundary looks at. -/
theorem syncsAndLateFramesAreReported : Obligations.SyncsAndLateFramesAreReported := by
  refine ⟨fun s p d pos hlive hactive hsync hpos hwhole hslots => ?_,
    fun s p d ds pos hlive hactive hsync hpos ha hidle habsent hadmitted hslots => ?_⟩
  · intro counted
    refine ⟨fun fsy onTime position hposition hontime hbehind hwords hcut hshort => ⟨fun hcheck => ?_, fun hcheck => ?_⟩,
      fun hdue => ?_, lateFrame_passed hlive hactive hpos⟩
    · have hexec := shortSync_exec hlive hactive hsync hpos hbehind hwords hwhole hposition hcut hshort hcheck
      have hclean : CleanBoundary (frameReported s p d.channels) p d onTime d.frameBits := by
        refine clean_of_whole (pos := pos) ?_ ?_ ?_ ?_ (by omega) ?_ (frameReported_whole hwhole _) ?_ hslots (Nat.le_refl _)
          fun _ => Nat.le_refl _
        · rw [frameReported_live, hlive]
        all_goals rw [frameReported_port]
        · exact hactive
        · exact hsync
        · exact hpos
        · omega
        · exact hontime
      refine ⟨hclean, hexec.trans (cleanBoundary_exec hclean).symm, _, hexec, fun m hm hpresent => ?_, by rw [takeBoundary_port]⟩
      obtain ⟨hflag, hcount⟩ := takeBoundary_frame hm (frameReported s p d.channels)
      obtain ⟨hflag', hcount'⟩ := frameReported_counts hm hpresent d.channels
      exact ⟨hflag.trans hflag', hcount.trans hcount'⟩
    · have hexact : d.check = .exact → False := fun h => nomatch h.symm.trans hcheck
      have hclean : CleanBoundary s p d fsy position := clean_of_whole hlive hactive hsync hpos hbehind hwords hwhole hposition hcut
        (Nat.le_of_lt hshort) fun h => (hexact h).elim
      have hclean' : CleanBoundary s p d onTime d.frameBits := clean_of_whole hlive hactive hsync hpos (by omega) (by omega) hwhole
        hontime hslots (Nat.le_refl _) fun h => (hexact h).elim
      rw [cleanBoundary_exec hclean, cleanBoundary_exec hclean']
    · intro passed
      refine ⟨fun hcheck => ⟨lateFrame_exact hlive hactive hsync hpos hwhole hdue hcheck, fun m hm hpresent => ?_⟩,
        lateFrame_early hlive hactive hsync hpos hwhole hdue⟩
      exact frameReported_counts (s := passed) hm hpresent d.channels
  · intro e fault reported
    have hpresent : e.state ≠ .absent := by rw [show e.state = .idle from hidle]; nofun
    have hframed : e.framed = reported := if_neg hpresent
    have hwhole : FrameWhole s p := ⟨hadmitted, fun h => nomatch hidle.symm.trans h.1⟩
    have hevents : ∀ index, (frameReported s p index).events = fault index := frameReported_events ha hpresent habsent
    refine ⟨fun fsy position hposition hbehind hwords hlength => ?_, fun hdue => ?_⟩
    · have hcome := canCome_of_whole hsync hpos hbehind hwords hwhole hlength
      refine ⟨_, frameBoundary_live hlive hactive hposition, by rw [boundaryAt_port hactive hcome], fun hearly => ?_,
        fun hcut hshort hcheck => ?_, fun hcut hclean => ?_⟩
      all_goals rw [boundaryAt_synced hcome hsync]
      · obtain ⟨hstream, hevents'⟩ := earlyRepaired_at_rest hactive hidle habsent position
        rw [endFrame_early hactive hearly]
        exact ⟨hstream.trans hframed, hevents'.trans (hevents _)⟩
      · obtain ⟨hstream, hevents'⟩ := frameReported_at_rest hactive hidle habsent d.channels
        rw [endFrame_short hcut hshort hcheck]
        exact ⟨hstream.trans hframed, hevents'.trans (hevents _)⟩
      · rw [endFrame_clean hcut fun hexact => hclean.elim (fun h => Nat.le_of_eq h.symm) fun h => nomatch h.symm.trans hexact]
        exact takeBoundary_at_rest hactive hidle habsent
    · cases hcheck : d.check with
      | exact =>
        have hframe := frameReported_eq (s.bitPassed p d) p d.channels
        refine ⟨_, lateFrame_exact hlive hactive hsync hpos hwhole hdue hcheck, ?_, ?_, fun m hm => ?_, fun _ => ⟨?_, ?_⟩, nofun⟩
        · rw [hframe]
          rfl
        · rw [frameReported_port, State.bitPassed, setPort_port_same]
        · exact frameReported_others (s := s.bitPassed p d) habsent hm d.channels
        · exact (frameReported_stream (.inl rfl) (s.bitPassed p d) d.channels).trans hframed
        · exact frameReported_events (s := s.bitPassed p d) ha hpresent habsent d.channels
      | early =>
        refine ⟨_, lateFrame_early hlive hactive hsync hpos hwhole hdue hcheck, rfl, ?_, fun _ _ => rfl, nofun, fun _ => ⟨rfl, rfl⟩⟩
        rw [State.bitPassed, setPort_port_same]

end Sys2Proof.Proofs
